-- ==== Sys2Proof/Word.lean ====
section
/-! DEFINITION. The two word types of the block and the run record made of them (R6, R8, R9). -/

namespace Sys2Proof

/-- One byte: `BYTE_W` = 8 bits, a number in 0 to 255 (R6, R9). -/
abbrev Byte := BitVec 8

/-- A record's count: `COUNT_W` = 16 bits, unsigned (R6). -/
abbrev Count := BitVec 16

/-- A run record `(count, value)`: as bytes, the 3-byte unit of the Encoded Stream (R9, R11, R61). -/
structure Record where
  count : Count
  value : Byte
deriving DecidableEq, Repr

end Sys2Proof
end

