-- ==== Sys2Proof/Config.lean ====
section
/-! DEFINITION. The parameters of the block (R6). Five are fixed by the format; `LEN_WIDTH` is open (D4) and has no
value here, so that whatever is proved holds for every width the spec allows (log 1). -/

namespace Sys2Proof

/-- `MAX_COUNT`: the largest count one record carries (R6). -/
abbrev Config.maxCount : Nat := 65535

/-- `MIN_EMIT_COUNT`: the smallest count the encoder emits (R6). -/
abbrev Config.minEmitCount : Nat := 1

/-- `REC_BYTES`: bytes per run record (R6). -/
abbrev Config.recBytes : Nat := 3

/-- DESIGN CHOICE (log 1), safe: by how much `LEN_WIDTH` exceeds its least value 2. No body: nothing can evaluate it. -/
opaque Config.lenWidthOverTwo : Nat

/-- `LEN_WIDTH`: the width of `cmd_len` and `REM`, OPEN, at least 2 (R6, D4). -/
def Config.lenWidth : Nat := Config.lenWidthOverTwo + 2

/-- What `cmd_len` and `REM` hold: `LEN_WIDTH` bits, unsigned, 0 to `2^LEN_WIDTH` - 1 (R6, R20, R42, R62). A length of
`2^LEN_WIDTH` or more does not exist here (U8, R186). -/
abbrev Len := BitVec Config.lenWidth

/-- The width for which spec/opcode_table.json shows the two command rows, the default of D4 (log 2). -/
abbrev Config.tableLenWidth : Nat := 32

end Sys2Proof
end

