-- ==== Sys2Proof/Syntax.lean ====
section
/-! DEFINITION. The operations of the block, one constructor per row of spec/opcode_table.json (R67). -/

namespace Sys2Proof

/-- The rows of the operation map (R67), in the table's order. -/
inductive Instr where
  /-- ENCODE, a command token `{0, len}` (R62, R81). -/
  | encode (len : Nat)
  /-- DECODE, a command token `{1, len}` (R62, R82). -/
  | decode (len : Nat)
  /-- ENC.TAKE, the step selected by ST = ENC_SCAN (R97). -/
  | encTake
  /-- SER.PUT, the step selected by ST = ENC_EMIT (R110). -/
  | serPut
  /-- DES.TAKE, the step selected by ST = DEC_FETCH (R120). -/
  | desTake
  /-- EXP.PUT, the step selected by ST = DEC_EXPAND (R122). -/
  | expPut
  /-- CTL.RESP, the step selected by ST = RESP (R83). -/
  | ctlResp
  /-- REC, one run record of an Encoded Stream (R61, R105, R107). -/
  | record (count : Count) (value : Byte)
  /-- RSP.OK, the response token with status 0 (R63). -/
  | rspOk
  /-- RSP.MALFORMED, the response token with status 1 (R63). -/
  | rspMalformed
deriving DecidableEq, Repr

/-- The formats that carry a row of the table (R60); the data beat (R64) carries none. -/
inductive Format where
  /-- `CMD`: `{op, len}`, 1 + LEN_WIDTH bits (R62). -/
  | cmd
  /-- `STEP`: the 3-bit code of ST (R65). -/
  | step
  /-- `REC`: 24 bits as 3 bytes (R61). -/
  | record
  /-- `RSP`: 1 bit (R63). -/
  | rsp
deriving DecidableEq, Repr

/-- The format of each row (R67). -/
def Instr.format : Instr → Format
  | .encode _ => .cmd
  | .decode _ => .cmd
  | .encTake => .step
  | .serPut => .step
  | .desTake => .step
  | .expPut => .step
  | .ctlResp => .step
  | .record _ _ => .record
  | .rspOk => .rsp
  | .rspMalformed => .rsp

end Sys2Proof
end

