-- ==== Sys2Proof/WellFormed.lean ====
section
/-! DEFINITION. Which operations can be written on the block's wires. The only field of
an operation as it is written whose type is wider than its wires is a command's length (R62), a number: a length of
`2^LEN_WIDTH` or more is not expressible in `cmd_len` (U8, R186), so no command token has it. -/

namespace Sys2Proof

/-- The operation's fields fit the wires when `cmd_len` has `lw` wires (R62). -/
def Instr.fits (lw : Nat) : Instr → Bool
  | .encode len => decide (len < 2 ^ lw)
  | .decode len => decide (len < 2 ^ lw)
  | .encTake => true
  | .serPut => true
  | .desTake => true
  | .expPut => true
  | .ctlResp => true
  | .record _ _ => true
  | .rspOk => true
  | .rspMalformed => true

/-- Well-formed for this block: the fields fit its own `LEN_WIDTH` (R6, R62). -/
def Instr.wf (i : Instr) : Bool := i.fits Config.lenWidth

end Sys2Proof
end

