-- ==== Sys2Proof/Decode.lean ====
section
/-! DEFINITION. Encodings: decoding the words of the four formats that carry an operation, the encoder written from
the same tables, the three bytes of a record (R60 to R66, R105, R107), and lengths as the values of `cmd_len` and
`REM`. What a word means depends on the format that carries it (R60), so the decoder is given the format. -/

namespace Sys2Proof

/-! ### The record as bytes (R45, R61, R66, R105, R107) -/

/-- `count[15:8]`, the byte at record offset 0 (R61, R66). -/
def highByte (c : Count) : Byte := BitVec.ofNat 8 (c.toNat / 256)

/-- `count[7:0]`, the byte at record offset 1 (R61, R66). -/
def lowByte (c : Count) : Byte := BitVec.ofNat 8 (c.toNat % 256)

/-- `{B0, B1}` = 256 * B0 + B1, the count from its two bytes (R66). -/
def countOf (b0 b1 : Byte) : Count := BitVec.ofNat 16 (256 * b0.toNat + b1.toNat)

/-- `pack(c, v)`: the three bytes of a record, most significant count byte first (R105). -/
def pack (r : Record) : List Byte := [highByte r.count, lowByte r.count, r.value]

/-- `unpack(B0, B1, B2)`: the record three bytes stand for, total (R107). -/
def unpack (b0 b1 b2 : Byte) : Record := ⟨countOf b0 b1, b2⟩

/-! ### Lengths (R6, R22, R62, U8) -/

/-- `LEN_WIDTH` is at least 2 (R6). -/
theorem four_le_lengths : 4 ≤ 2 ^ Config.lenWidth := by
  rw [Config.lenWidth, Nat.pow_add]
  exact Nat.le_mul_of_pos_left _ (Nat.two_pow_pos _)

/-- The lengths 0 to 3, which every `LEN_WIDTH` has. -/
def lenShort (n : Nat) (h : n < 4) : Len := BitVec.ofNatLT n (Nat.lt_of_lt_of_le h four_le_lengths)

/-- Whether `cmd_len` can carry `n`. -/
def lenFits (n : Nat) : Decidable (n < 2 ^ Config.lenWidth) :=
  if h : n < 4 then .isTrue (Nat.lt_of_lt_of_le h four_le_lengths) else Nat.decLt n (2 ^ Config.lenWidth)

/-- `n` on the wires `cmd_len`; none if they cannot carry it (U8: not expressible). -/
def lenOf (n : Nat) : Option Len :=
  match lenFits n with
  | .isTrue h => some (BitVec.ofNatLT n h)
  | .isFalse _ => none

/-- `REM - 1`, exact: a take happens only with `REM > 0` (R22, R140). -/
def lenPred (n : Len) : Len := BitVec.ofNatLT (n.toNat - 1) (Nat.lt_of_le_of_lt (Nat.sub_le _ _) n.isLt)

/-- `n`, but at least `k`. -/
def lenAtLeast (k : Nat) (h : k < 4) (n : Len) : Len := if n.toNat < k then lenShort k h else n

/-! ### The decoder -/

/-- Why a word is no operation. -/
inductive DecodeError where
  /-- The word has a bit above the format's length (R60); no wire carries it. -/
  | tooWide
  /-- ST code 000, IDLE: it selects the taking of a command, and the operation is the command's (R65). -/
  | idleSelectsCommand
  /-- ST codes 110 and 111: no operation, never entered (R65, R68 d). -/
  | unusedStateCode
deriving DecidableEq, Repr

/-- A `CMD` word `{op, len}` with `lw` length bits (R62). -/
def decodeCmd (lw w : Nat) : Except DecodeError Instr :=
  match w / 2 ^ lw with
  | 0 => .ok (.encode (w % 2 ^ lw))
  | 1 => .ok (.decode (w % 2 ^ lw))
  | _ => .error .tooWide

/-- A `STEP` word, the 3-bit code of ST (R65). -/
def decodeStep (w : Nat) : Except DecodeError Instr :=
  match w with
  | 0 => .error .idleSelectsCommand
  | 1 => .ok .encTake
  | 2 => .ok .serPut
  | 3 => .ok .desTake
  | 4 => .ok .expPut
  | 5 => .ok .ctlResp
  | 6 => .error .unusedStateCode
  | 7 => .error .unusedStateCode
  | _ => .error .tooWide

/-- A `REC` word `W`, whose most significant byte is the byte at the lowest offset (R61): the three bytes in their
order in the buffer, unpacked. -/
def decodeRecord (w : Nat) : Except DecodeError Instr :=
  if w < 2 ^ 24 then
    let r := unpack (BitVec.ofNat 8 (w / 65536)) (BitVec.ofNat 8 (w / 256)) (BitVec.ofNat 8 w)
    .ok (.record r.count r.value)
  else .error .tooWide

/-- An `RSP` word, the status bit (R63). -/
def decodeRsp (w : Nat) : Except DecodeError Instr :=
  match w with
  | 0 => .ok .rspOk
  | 1 => .ok .rspMalformed
  | _ => .error .tooWide

/-- The decoder for `cmd_len` of `lw` bits: total on every word of every format. -/
def decodeWordAt (lw : Nat) (f : Format) (w : Nat) : Except DecodeError Instr :=
  match f with
  | .cmd => decodeCmd lw w
  | .step => decodeStep w
  | .record => decodeRecord w
  | .rsp => decodeRsp w

/-- The block's decoder, at its own `LEN_WIDTH` (R62). -/
def decodeWord (f : Format) (w : Nat) : Except DecodeError Instr := decodeWordAt Config.lenWidth f w

/-! ### The encoder -/

/-- The word of an operation in its format, for `cmd_len` of `lw` bits (R61, R62, R63, R65). -/
def encodeWordAt (lw : Nat) : Instr → Nat
  | .encode len => len
  | .decode len => 2 ^ lw + len
  | .encTake => 1
  | .serPut => 2
  | .desTake => 3
  | .expPut => 4
  | .ctlResp => 5
  | .record count value => 256 * count.toNat + value.toNat
  | .rspOk => 0
  | .rspMalformed => 1

/-- The word of an operation at the block's own `LEN_WIDTH`. -/
def encodeWord (i : Instr) : Nat := encodeWordAt Config.lenWidth i

/-- How many bits a format's words have (R60), for `cmd_len` of `lw` bits. -/
def Format.bits (lw : Nat) : Format → Nat
  | .cmd => 1 + lw
  | .step => 3
  | .record => 24
  | .rsp => 1

/-! ### The opcode table's words -/

/-- The format of a table row that has `nbits` bits. The exact widths of the table tell the formats apart; in whole
bytes the rows of 3 bits and of 1 bit are both 8 bits wide, and then the word 0 is read as a response and every other
word as a step code (log 3). -/
def tableFormat (nbits w : Nat) : Option Format :=
  if nbits = 33 ∨ nbits = 40 then some .cmd
  else if nbits = 24 then some .record
  else if nbits = 3 then some .step
  else if nbits = 1 then some .rsp
  else if nbits = 8 then (if w = 0 then some .rsp else some .step)
  else none

/-- What the decoder reads from a word of spec/opcode_table.json, whose command rows are shown for `LEN_WIDTH` = 32
(log 2). -/
def decodeTableWord (nbits w : Nat) : Option Instr :=
  match tableFormat nbits w with
  | none => none
  | some f => (decodeWordAt Config.tableLenWidth f w).toOption

end Sys2Proof
end

