-- ==== Sys2Proof/Machine/State.lean ====
section
/-! DEFINITION. The state of the machine: the block's thirteen registers (R20) and, as plain data, the environment's
part of the machine (R33 b and c, R41, R57); the state after reset (R34, R170); the reasons a step could stop. -/

namespace Sys2Proof.Machine

/-- `ST`, the sequencer: exactly six values (R21). The codes 6 and 7 have no value (R68 d). -/
inductive Phase where
  /-- No transaction; the block can take a command. -/
  | idle
  /-- Encoding; the block can take an input byte. -/
  | encScan
  /-- Encoding; the block is putting out the three bytes of one record. -/
  | encEmit
  /-- Decoding; the block can take an encoded byte. -/
  | decFetch
  /-- Decoding; the block is putting out copies of one value. -/
  | decExpand
  /-- The transaction's data is finished or was refused; the block is putting out the response. -/
  | resp
deriving DecidableEq, Repr

/-- `SER_IDX` and `DES_IDX`: which byte of a record (R25, R26). The value 3 does not exist (R65). -/
inductive RecIdx where
  /-- 0, the high count byte. -/
  | high
  /-- 1, the low count byte. -/
  | low
  /-- 2, the value byte. -/
  | value
deriving DecidableEq, Repr

/-- `STATUS` and the response token (R23, R63). -/
inductive Status where
  /-- 0, OK. -/
  | ok
  /-- 1, MALFORMED_INPUT. -/
  | malformedInput
deriving DecidableEq, Repr

/-- `cmd_op` (R62). -/
inductive Op where
  /-- 0, ENCODE. -/
  | encode
  /-- 1, DECODE. -/
  | decode
deriving DecidableEq, Repr

/-- A command token: two fields presented in parallel, `cmd_op` and the `LEN_WIDTH` bits of `cmd_len` (R40, R62). -/
structure CmdToken where
  op : Op
  len : Len
deriving DecidableEq, Repr

/-- DESIGN CHOICE (log 4), safe: what the environment does at one rising edge of `clk` (R42, R57). -/
structure Edge where
  /-- `rst` at this edge (R170). -/
  rst : Bool
  /-- The host raises `cmd_valid` for its next command token, if it has one and has not raised it already. -/
  cmdOffer : Bool
  /-- The provider raises `din_valid` for its next byte, if it has one and has not raised it already. -/
  dinOffer : Bool
  /-- `dout_ready`, the consumer's willingness. -/
  doutReady : Bool
  /-- `rsp_ready`, the host's willingness. -/
  rspReady : Bool
  /-- How many command tokens the host withdraws; only while `rst` is 1 (R184). -/
  cmdWithdraw : Nat
  /-- How many bytes the provider withdraws; only while `rst` is 1 (R184). -/
  dinWithdraw : Nat
deriving DecidableEq, Repr

/-- The machine: the thirteen registers (R20), then the four channels as lists of tokens (R41), then the
environment's behaviour at the coming edges. -/
structure State where
  /-- `ST` (R21). -/
  st : Phase
  /-- `REM`, `LEN_WIDTH` bits (R22). -/
  rem : Len
  /-- `STATUS` (R23). -/
  status : Status
  /-- `RUN_VALID` (R24). -/
  runValid : Bool
  /-- `RUN_VALUE` (R24). -/
  runValue : Byte
  /-- `RUN_COUNT` (R24). -/
  runCount : Count
  /-- `SER_COUNT` (R25). -/
  serCount : Count
  /-- `SER_VALUE` (R25). -/
  serValue : Byte
  /-- `SER_IDX` (R25). -/
  serIdx : RecIdx
  /-- `DES_IDX` (R26). -/
  desIdx : RecIdx
  /-- `DES_HI` (R26). -/
  desHi : Byte
  /-- `EXP_COUNT` (R27). -/
  expCount : Count
  /-- `EXP_VALUE` (R27). -/
  expValue : Byte
  /-- The command tokens the host will offer, the next at the head (R41). -/
  cmd : List CmdToken
  /-- The bytes the provider will offer, the next at the head (R41). -/
  din : List Byte
  /-- The bytes put so far, in the order they were put (R41). -/
  dout : List Byte
  /-- The responses put so far, in the order they were put (R41). -/
  rsp : List Status
  /-- The host has raised `cmd_valid` since its last token was taken, and keeps it (R42, R185; log 5). -/
  cmdHeld : Bool
  /-- The provider has raised `din_valid` since its last token was taken, and keeps it (R42, R185; log 5). -/
  dinHeld : Bool
  /-- What the environment does at the coming edges, the next at the head (log 4). -/
  sched : List Edge
  /-- What the environment does at every edge after those (log 4). -/
  rest : Edge
deriving DecidableEq, Repr

/-- The edge at which every partner is willing and there is no reset. -/
def Edge.willing : Edge where
  rst := false
  cmdOffer := true
  dinOffer := true
  doutReady := true
  rspReady := true
  cmdWithdraw := 0
  dinWithdraw := 0

/-- The machine right after reset: every register as R34 says. DESIGN CHOICE (log 7), unsafe: the channels are empty,
nothing is offered, and the environment is willing, since the spec's reset is of the block alone. -/
def State.reset : State where
  st := .idle
  rem := 0
  status := .ok
  runValid := false
  runValue := 0
  runCount := 0
  serCount := 0
  serValue := 0
  serIdx := .high
  desIdx := .high
  desHi := 0
  expCount := 0
  expValue := 0
  cmd := []
  din := []
  dout := []
  rsp := []
  cmdHeld := false
  dinHeld := false
  sched := []
  rest := Edge.willing

/-- There is no fault: MalformedInput, the one exception, is an ordinary reported result and so a next state (R159).
Nobody raises a fault; safe. -/
inductive Fault where
deriving DecidableEq, Repr

/-- A model of this block has nothing to refuse (R159); the one constructor is the host's. -/
inductive Refusal where
  /-- Raised by an arm of exec whose operation has no meaning yet; no arm raises it now. Safe. -/
  | notModelled (mnemonic : String)
deriving DecidableEq, Repr

/-- The three outcomes of a step of this machine. -/
abbrev Result := Host.Outcome State Fault Refusal

end Sys2Proof.Machine
end

