-- ==== Sys2Proof/Machine/Operands.lean ====
section
/-! DEFINITION. The operand forms: how a command token is read as an operation (R62), the code of ST (R65), the
numbers of the record indices, and which byte of the latched record goes out next (R43, R110). -/

namespace Sys2Proof.Machine

/-- `cmd_op` as its bit (R62). -/
def Op.bit : Op → Nat
  | .encode => 0
  | .decode => 1

/-- The command's wires seen as one word `{op, len}` of `1 + LEN_WIDTH` bits (R62). -/
def CmdToken.word (t : CmdToken) : Nat := t.op.bit * 2 ^ Config.lenWidth + t.len.toNat

/-- The operation a command token selects: `cmd_op` tells which (R67). -/
def CmdToken.instr (t : CmdToken) : Instr :=
  match t.op with
  | .encode => .encode t.len.toNat
  | .decode => .decode t.len.toNat

/-- The 3-bit code of ST (R65). -/
def Phase.code : Phase → Nat
  | .idle => 0
  | .encScan => 1
  | .encEmit => 2
  | .decFetch => 3
  | .decExpand => 4
  | .resp => 5

/-- `SER_IDX` and `DES_IDX` as numbers (R25, R26). -/
def RecIdx.toNat : RecIdx → Nat
  | .high => 0
  | .low => 1
  | .value => 2

/-- `rsp_status` as its bit (R63). -/
def Status.bit : Status → Nat
  | .ok => 0
  | .malformedInput => 1

/-- The record in the serializer's latch, `(SER_COUNT, SER_VALUE)` (R25). -/
def State.latched (s : State) : Record := ⟨s.serCount, s.serValue⟩

/-- The encoder's open run as a record, `(RUN_COUNT, RUN_VALUE)` (R24). -/
def State.openRecord (s : State) : Record := ⟨s.runCount, s.runValue⟩

/-- The byte of the latched record that `SER_IDX` picks (R43, R110). -/
def State.serByte (s : State) : Byte :=
  match s.serIdx with
  | .high => highByte s.serCount
  | .low => lowByte s.serCount
  | .value => s.serValue

end Sys2Proof.Machine
end

