-- ==== Sys2Proof/Machine/Flags.lean ====
section
/-! DEFINITION. Every test the block makes on its values (R140): the length guard and the empty check of a command
(R81, R82), and the encoder's comparison of a byte with the open run (R97, R101). The two flags themselves,
`RUN_VALID` and `STATUS`, are written by the operations of Ops.lean (R29). -/

namespace Sys2Proof.Machine

/-- The length-validation guard of DECODE: `len mod 3 != 0` (R82, R116). -/
def lengthMalformed (len : Nat) : Bool := decide (len % Config.recBytes ≠ 0)

/-- Case B of ENC.TAKE: the byte equals the open run's value and the count is not full (R97). -/
def State.extendsRun (s : State) (b : Byte) : Bool :=
  decide (b = s.runValue ∧ s.runCount.toNat < Config.maxCount)

/-- A command takes input if and only if `len > 0` and (`op = 0` or `len mod 3 = 0`) (R176). -/
def CmdToken.takesInput (t : CmdToken) : Bool :=
  match t.op with
  | .encode => decide (0 < t.len.toNat)
  | .decode => decide (0 < t.len.toNat) && !lengthMalformed t.len.toNat

end Sys2Proof.Machine
end

