-- ==== Sys2Proof/Machine/Ops.lean ====
section
/-! DEFINITION. The named operations on registers and channels that the meanings are made of (R10, R41): the primitive
writes, the takes and puts, reset, the two "what next" procedures EncAdvance (R98) and DecAdvance (R121), and the one
exception's entry and return (R155, R156). -/

namespace Sys2Proof.Machine

/-! ### Register writes -/

/-- `ST <- p` (R28). -/
def State.goto (s : State) (p : Phase) : State := { s with st := p }

/-- `REM <- n`. -/
def State.setRem (s : State) (n : Len) : State := { s with rem := n }

/-- `STATUS <- v` (R23). -/
def State.setStatus (s : State) (v : Status) : State := { s with status := v }

/-- `RUN_VALID <- v` (R29). -/
def State.setRunValid (s : State) (v : Bool) : State := { s with runValid := v }

/-- `RUN_VALUE <- b ; RUN_COUNT <- 1` (R97 cases A and C). -/
def State.newRun (s : State) (b : Byte) : State := { s with runValue := b, runCount := 1 }

/-- `RUN_COUNT <- RUN_COUNT + 1` (R97 case B). -/
def State.extendRun (s : State) : State := { s with runCount := s.runCount + 1 }

/-- `SER_IDX <- k` (R110). -/
def State.setSerIdx (s : State) (k : RecIdx) : State := { s with serIdx := k }

/-- The hand-over of the open run to the serializer: `SER_COUNT <- RUN_COUNT ; SER_VALUE <- RUN_VALUE ; SER_IDX <- 0`
(R97 case C, R98, R111). -/
def State.latchRun (s : State) : State :=
  { s with serCount := s.runCount, serValue := s.runValue, serIdx := .high }

/-- `DES_IDX <- k` (R120). -/
def State.setDesIdx (s : State) (k : RecIdx) : State := { s with desIdx := k }

/-- `DES_HI <- b` (R120). -/
def State.setDesHi (s : State) (b : Byte) : State := { s with desHi := b }

/-- `EXP_COUNT <- c` (R120, R122). -/
def State.setExpCount (s : State) (c : Count) : State := { s with expCount := c }

/-- `EXP_VALUE <- b` (R120). -/
def State.setExpValue (s : State) (b : Byte) : State := { s with expValue := b }

/-- What every command writes before its own length matters: `RUN_VALID <- 0 ; SER_IDX <- 0 ; DES_IDX <- 0`
(R81, R82). -/
def State.clearIndices (s : State) : State :=
  { s with runValid := false, serIdx := .high, desIdx := .high }

/-- All thirteen registers at their reset values, the channels as they are (R34, R170). -/
def State.resetRegs (s : State) : State :=
  { State.reset with
    cmd := s.cmd, din := s.din, dout := s.dout, rsp := s.rsp, cmdHeld := s.cmdHeld, dinHeld := s.dinHeld,
    sched := s.sched, rest := s.rest }

/-! ### Channels (R10, R41) -/

/-- The command at the head of `cmd` is consumed (R41 d); the host may now lower `cmd_valid` (R42). -/
def State.popCmd (s : State) : State := { s with cmd := s.cmd.tail, cmdHeld := false }

/-- The byte at the head of `din` is consumed, and `REM <- REM - 1` (R97, R120); the provider may now lower `din_valid`
(R42). -/
def State.popDin (s : State) : State := { s with din := s.din.tail, dinHeld := false, rem := lenPred s.rem }

/-- `PutDout(b)`: one token appended to `dout`. -/
def State.putDout (s : State) (b : Byte) : State := { s with dout := s.dout ++ [b] }

/-- `PutRsp(v)`: one token appended to `rsp`. -/
def State.putRsp (s : State) (v : Status) : State := { s with rsp := s.rsp ++ [v] }

/-! ### What next -/

/-- `EncAdvance()` (R98): scan on, flush the open run, or respond. -/
def State.encAdvance (s : State) : State :=
  if 0 < s.rem.toNat then s.goto .encScan
  else if s.runValid then ((s.latchRun).setRunValid false).goto .encEmit
  else s.goto .resp

/-- `DecAdvance()` (R121): fetch the next record, or respond. -/
def State.decAdvance (s : State) : State :=
  if 0 < s.rem.toNat then s.goto .decFetch else s.goto .resp

/-! ### The exception -/

/-- `raise MalformedInput`, the entry (R155): STATUS 1, REM 0, RUN_VALID, SER_IDX and DES_IDX 0, ST RESP; nothing is
saved, nothing taken, nothing put. -/
def State.raiseMalformedInput (s : State) : State :=
  (((s.clearIndices).setStatus .malformedInput).setRem 0).goto .resp

/-- The transfer of the response token, which is also the return from the exception (R83, R156):
`PutRsp(STATUS) ; ST <- IDLE`. -/
def State.respond (s : State) : State := (s.putRsp s.status).goto .idle

end Sys2Proof.Machine
end

