-- ==== Sys2Proof/Machine/Control.lean ====
section
/-! DEFINITION. Transaction control: the two commands and the response (R80 to R84). An operation whose event is not
on offer does not move the state: the offered token waits (R84, R41 e; log 8). -/

namespace Sys2Proof.Machine

/-- The command `op, len` can be taken now, `ST = IDLE` and it is the token at the head of `cmd` (R81, R82): then its
`cmd_len`. A `len` that `cmd_len` cannot carry is never the one there (U8). -/
def State.offeredLen (s : State) (op : Op) (len : Nat) : Option Len :=
  match s.cmd with
  | [] => none
  | t :: _ => if s.st = .idle ∧ t.op = op ∧ t.len.toNat = len then some t.len else none

/-- ENCODE (R81). -/
def execEncode (len : Nat) (s : State) : Result :=
  match s.offeredLen .encode len with
  | some l => .next ((((s.popCmd).clearIndices.setStatus .ok).setRem l).goto (if len = 0 then .resp else .encScan))
  | none => .next s

/-- DECODE (R82): the length guard, then as ENCODE. -/
def execDecode (len : Nat) (s : State) : Result :=
  match s.offeredLen .decode len with
  | some l =>
    if lengthMalformed len then .next (s.popCmd).raiseMalformedInput
    else .next ((((s.popCmd).clearIndices.setStatus .ok).setRem l).goto (if len = 0 then .resp else .decFetch))
  | none => .next s

/-- CTL.RESP (R83). -/
def execCtlResp (s : State) : Result :=
  if s.st = .resp then .next s.respond else .next s

/-- RSP.OK: the transfer of the response token with status 0, which is on offer in RESP when STATUS is 0 (R43, R83;
log 11). -/
def execRspOk (s : State) : Result :=
  if s.st = .resp ∧ s.status = .ok then .next s.respond else .next s

/-- RSP.MALFORMED: the transfer of the response token with status 1, which is on offer in RESP when STATUS is 1
(R43, R83, R155; log 11). -/
def execRspMalformed (s : State) : Result :=
  if s.st = .resp ∧ s.status = .malformedInput then .next s.respond else .next s

end Sys2Proof.Machine
end

