-- ==== Sys2Proof/Machine/Encoder.lean ====
section
/-! DEFINITION. The encoder's step ENC.TAKE (R97). -/

namespace Sys2Proof.Machine

/-- The three cases of ENC.TAKE once the byte `b` has been taken and `REM` counted down (R97). -/
def State.encScanByte (s : State) (b : Byte) : State :=
  if s.runValid = false then ((s.newRun b).setRunValid true).encAdvance
  else if s.extendsRun b then s.extendRun.encAdvance
  else (s.latchRun.newRun b).goto .encEmit

/-- ENC.TAKE (R97): enabled in ENC_SCAN, then `REM > 0` (R140; log 9); its event is the transfer of one `din` token. -/
def execEncTake (s : State) : Result :=
  if s.st = .encScan ∧ 0 < s.rem.toNat then
    match s.din with
    | [] => .next s
    | b :: _ => .next (s.popDin.encScanByte b)
  else .next s

end Sys2Proof.Machine
end

