-- ==== Sys2Proof/Machine/Decoder.lean ====
section
/-! DEFINITION. The decoder's steps: DES.TAKE, the unpacker (R120), and EXP.PUT, the expander (R122). -/

namespace Sys2Proof.Machine

/-- The three cases of DES.TAKE once the byte `b` has been taken and `REM` counted down (R120). -/
def State.fetchByte (s : State) (b : Byte) : State :=
  match s.desIdx with
  | .high => (s.setDesHi b).setDesIdx .low
  | .low => (s.setExpCount (countOf s.desHi b)).setDesIdx .value
  | .value =>
    let s' := (s.setExpValue b).setDesIdx .high
    if 0 < s'.expCount.toNat then s'.goto .decExpand else s'.decAdvance

/-- DES.TAKE (R120): enabled in DEC_FETCH, then `REM > 0` (R140; log 9); its event is the transfer of one `din`
token. -/
def execDesTake (s : State) : Result :=
  if s.st = .decFetch ∧ 0 < s.rem.toNat then
    match s.din with
    | [] => .next s
    | b :: _ => .next (s.popDin.fetchByte b)
  else .next s

/-- One put of EXP.PUT; after the last copy DecAdvance (R122). -/
def State.expandBeat (s : State) : State :=
  let s' := (s.putDout s.expValue).setExpCount (s.expCount - 1)
  if s'.expCount = 0 then s'.decAdvance else s'

/-- EXP.PUT (R122): enabled in DEC_EXPAND, then `EXP_COUNT >= 1` (R140; log 9); its event is the transfer of one
`dout` token. -/
def execExpPut (s : State) : Result :=
  if s.st = .decExpand ∧ 0 < s.expCount.toNat then .next s.expandBeat else .next s

end Sys2Proof.Machine
end

