-- ==== Sys2Proof/Machine/Serializer.lean ====
section
/-! DEFINITION. The serializer's step SER.PUT (R110). -/

namespace Sys2Proof.Machine

/-- One put of SER.PUT: the byte `SER_IDX` picks, then the next index; after the third byte EncAdvance (R110). -/
def State.serBeat (s : State) : State :=
  match s.serIdx with
  | .high => (s.putDout (highByte s.serCount)).setSerIdx .low
  | .low => (s.putDout (lowByte s.serCount)).setSerIdx .value
  | .value => ((s.putDout s.serValue).setSerIdx .high).encAdvance

/-- SER.PUT (R110): enabled in ENC_EMIT; its event is the transfer of one `dout` token. -/
def execSerPut (s : State) : Result :=
  if s.st = .encEmit then .next s.serBeat else .next s

end Sys2Proof.Machine
end

