-- ==== Sys2Proof/Machine/RecordFormat.lean ====
section
/-! DEFINITION. The row REC. It is a data format, not a step (R67): what a record means to the machine is the
transfer of its three bytes, which are three steps (R47). DESIGN CHOICE (log 10): the meaning of the row is the three
beats together, `unpack` when the record is on `din` (R107, R120) and `pack` when it is in the latch (R105, R110). -/

namespace Sys2Proof.Machine

/-- The record is the next thing on `din`: the decoder is at a record boundary with the record's three bytes ahead
(R45, R46, R120). -/
def State.offersRecord (s : State) (r : Record) : Bool :=
  decide (s.st = .decFetch ∧ s.desIdx = .high ∧ Config.recBytes ≤ s.rem.toNat ∧ s.din.take Config.recBytes = pack r)

/-- The record is in the latch with none of its bytes put (R25, R111). -/
def State.holdsRecord (s : State) (r : Record) : Bool :=
  decide (s.st = .encEmit ∧ s.serIdx = .high ∧ s.latched = r)

/-- The three takes of a record (R107, R120). -/
def State.takeRecord (s : State) (r : Record) : State :=
  (((s.popDin.fetchByte (highByte r.count)).popDin.fetchByte (lowByte r.count)).popDin).fetchByte r.value

/-- The three puts of the latched record (R105, R110, R111). -/
def State.putRecord (s : State) : State := s.serBeat.serBeat.serBeat

/-- REC (R61, R105, R107): the record's three bytes are taken and unpacked, or packed and put. -/
def execRecord (count : Count) (value : Byte) (s : State) : Result :=
  if s.offersRecord ⟨count, value⟩ then .next (s.takeRecord ⟨count, value⟩)
  else if s.holdsRecord ⟨count, value⟩ then .next s.putRecord
  else .next s

end Sys2Proof.Machine
end

