-- ==== Sys2Proof/Machine/Dispatch.lean ====
section
/-! DEFINITION. One arm per row of the opcode table. -/

namespace Sys2Proof.Machine

/-- The meaning of each operation: the event it names, if that event is on offer. -/
def exec (i : Instr) (s : State) : Host.Outcome State Fault Refusal :=
  match i with
  | .encode len => Sys2Proof.Machine.execEncode len s
  | .decode len => Sys2Proof.Machine.execDecode len s
  | .encTake => Sys2Proof.Machine.execEncTake s
  | .serPut => Sys2Proof.Machine.execSerPut s
  | .desTake => Sys2Proof.Machine.execDesTake s
  | .expPut => Sys2Proof.Machine.execExpPut s
  | .ctlResp => Sys2Proof.Machine.execCtlResp s
  | .record count value => Sys2Proof.Machine.execRecord count value s
  | .rspOk => Sys2Proof.Machine.execRspOk s
  | .rspMalformed => Sys2Proof.Machine.execRspMalformed s

end Sys2Proof.Machine
end

