-- ==== Sys2Proof/Machine/Ports.lean ====
section
/-! DEFINITION. The signal level: the block's outputs, functions of the registers alone (R43), and the environment's
`valid` and `ready` inputs at an edge (R42). -/

namespace Sys2Proof.Machine

/-- `cmd_ready` (R43). -/
def State.cmdReady (s : State) : Bool := decide (s.st = .idle)

/-- `din_ready` (R43). -/
def State.dinReady (s : State) : Bool := decide (s.st = .encScan ∨ s.st = .decFetch)

/-- `dout_valid` (R43). -/
def State.doutValid (s : State) : Bool := decide (s.st = .encEmit ∨ s.st = .decExpand)

/-- `dout_data` (R43); no value where the spec says it is not meaningful (log 12). -/
def State.doutData (s : State) : Option Byte :=
  match s.st with
  | .encEmit => some s.serByte
  | .decExpand => some s.expValue
  | .idle => none
  | .encScan => none
  | .decFetch => none
  | .resp => none

/-- `rsp_valid` (R43). -/
def State.rspValid (s : State) : Bool := decide (s.st = .resp)

/-- `rsp_status` (R43); no value where the spec says it is not meaningful (log 12). -/
def State.rspStatus (s : State) : Option Status := if s.st = .resp then some s.status else none

/-- `cmd_valid`: the host has a token, and raises `cmd_valid` or has raised it before (R42). -/
def State.cmdValid (s : State) (e : Edge) : Bool := (s.cmdHeld || e.cmdOffer) && !s.cmd.isEmpty

/-- `din_valid`: the provider has a byte, and raises `din_valid` or has raised it before (R42). -/
def State.dinValid (s : State) (e : Edge) : Bool := (s.dinHeld || e.dinOffer) && !s.din.isEmpty

/-- A token would move at this edge if `rst` is 0: some channel's `valid` and `ready` are both 1 (R42). -/
def State.handshake (s : State) (e : Edge) : Bool :=
  (s.cmdValid e && s.cmdReady) || (s.dinValid e && s.dinReady) || (s.doutValid && e.doutReady) ||
    (s.rspValid && e.rspReady)

/-- The operation the block would perform next: the step that ST's code selects (R65), and in IDLE the command at the
head of `cmd`, if there is one (R67). -/
def State.selected (s : State) : Option Instr :=
  match decodeStep s.st.code with
  | .ok i => some i
  | .error .idleSelectsCommand => s.cmd.head?.map CmdToken.instr
  | .error .unusedStateCode => none
  | .error .tooWide => none

end Sys2Proof.Machine
end

