-- ==== Sys2Proof/Machine/Clock.lean ====
section
/-! DEFINITION. One rising edge of `clk` (R42, R170): reset wins; else the selected operation is performed if its
channel's handshake is made; else nothing moves. And the placing of an operation as the next one to run. -/

namespace Sys2Proof.Machine

/-- What the environment does at the coming edge (log 4). -/
def State.edge (s : State) : Edge := s.sched.headD s.rest

/-- The coming edge is used up (log 4); what is raised at it stays raised until the transfer (R42, R185; log 5). -/
def State.tick (s : State) : State :=
  { s with
    sched := s.sched.tail, cmdHeld := s.cmdHeld || s.edge.cmdOffer, dinHeld := s.dinHeld || s.edge.dinOffer }

/-- An edge with `rst = 1`: all thirteen registers take their reset values, no token is transferred (R170), and the
host and the provider may withdraw tokens, for which alone the duty to hold them ends (R184; log 6). -/
def State.resetEdge (s : State) (e : Edge) : State :=
  { s.resetRegs with
    cmd := s.cmd.drop e.cmdWithdraw, din := s.din.drop e.dinWithdraw,
    cmdHeld := s.cmdHeld && e.cmdWithdraw == 0, dinHeld := s.dinHeld && e.dinWithdraw == 0 }

/-- The operation performed at an edge with `rst = 0`, if any: the selected one, when its handshake is made (R42). -/
def State.fires (s : State) (e : Edge) : Option Instr := if s.handshake e then s.selected else none

/-- One rising edge of `clk`. -/
def clockEdge (s : State) : Result :=
  if s.edge.rst then .next (s.tick.resetEdge s.edge)
  else
    match s.fires s.edge with
    | some i => exec i s.tick
    | none => .next s.tick

/-! ### Placing an operation so that the next edge performs it (log 2, 3, 10) -/

/-- The coming edge is a willing one. -/
def State.willingNext (s : State) : State := { s with sched := Edge.willing :: s.sched }

/-- A byte is on offer on `din`: if there is none, the byte 0. -/
def State.offerByte (s : State) : State := if s.din = [] then { s with din := [0] } else s

/-- A command is on offer in IDLE, in front of all others; one whose length `cmd_len` cannot carry cannot be (U8), and
nothing changes. -/
def State.placeCmd (s : State) (op : Op) (len : Nat) : State :=
  match lenOf len with
  | some l => { s.willingNext with st := .idle, cmd := ⟨op, l⟩ :: s.cmd }
  | none => s

/-- The operation is made the next one: ST selects it, its token is on offer, its partner is willing, and the counters
it counts down are not 0. Nothing else changes. -/
def State.place (s : State) (i : Instr) : State :=
  match i with
  | .encode len => s.placeCmd .encode len
  | .decode len => s.placeCmd .decode len
  | .encTake => { s.willingNext.offerByte with st := .encScan, rem := lenAtLeast 1 (by decide) s.rem }
  | .serPut => { s.willingNext with st := .encEmit }
  | .desTake => { s.willingNext.offerByte with st := .decFetch, rem := lenAtLeast 1 (by decide) s.rem }
  | .expPut => { s.willingNext with st := .decExpand, expCount := if s.expCount = 0 then 1 else s.expCount }
  | .ctlResp => { s.willingNext with st := .resp }
  | .record count value =>
    { s.willingNext with
      st := .decFetch, desIdx := .high, rem := lenAtLeast Config.recBytes (by decide) s.rem,
      din := pack ⟨count, value⟩ ++ s.din }
  | .rspOk => { s.willingNext with st := .resp, status := .ok }
  | .rspMalformed => { s.willingNext with st := .resp, status := .malformedInput }

/-- The operation of a table word is made the next one; a word that is none changes nothing. -/
def State.placeWord (s : State) (nbits w : Nat) : State :=
  match decodeTableWord nbits w with
  | some i => s.place i
  | none => s

end Sys2Proof.Machine
end

