-- ==== Sys2Proof/Machine/Step.lean ====
section
/-! DEFINITION. One step of the machine: one rising edge of `clk`. -/

namespace Sys2Proof.Machine

/-- One rising edge of `clk` (R42, R43, R170). -/
def step (s : State) : Host.Outcome State Fault Refusal := clockEdge s

/-- The state in which the operation of a word of the opcode table is the next one performed (log 18). -/
def State.withFetchWord (s : State) (nbits w : Nat) : State := s.placeWord nbits w

end Sys2Proof.Machine
end

