-- ==== Sys2Proof/Machine/Codec.lean ====
section
/-! DEFINITION. The function level (R7): `encode`, `decode` and what they are made of, as total pure functions on byte
sequences (R90 to R94, R105 to R108, R115). The machine is tied to them by refinement (R136); it does not call them. -/

namespace Sys2Proof.Codec

/-- `mruns(b)`: the maximal runs of a byte sequence, lengths unbounded (R90). -/
def mruns : List Byte → List (Nat × Byte)
  | [] => []
  | x :: xs =>
    match mruns xs with
    | [] => [(1, x)]
    | (n, v) :: rs => if x = v then (n + 1, v) :: rs else (1, x) :: (n, v) :: rs

/-- `split(L, v)`: the records of one maximal run, full ones first, a remainder only if there is one (R91). -/
def split (n : Nat) (v : Byte) : List Record :=
  List.replicate (n / Config.maxCount) ⟨BitVec.ofNat 16 Config.maxCount, v⟩ ++
    if n % Config.maxCount = 0 then [] else [⟨BitVec.ofNat 16 (n % Config.maxCount), v⟩]

/-- `enc_runs(b)`, the record list (R92). -/
def encRuns (b : List Byte) : List Record := (mruns b).flatMap fun r => split r.1 r.2

/-- `snoc(rs, x)`: the last record extended, or a new one opened (R93). -/
def snoc : List Record → Byte → List Record
  | [], x => [⟨1, x⟩]
  | [r], x =>
    if r.value = x ∧ r.count.toNat < Config.maxCount then [⟨r.count + 1, r.value⟩] else [r, ⟨1, x⟩]
  | r :: r' :: rs, x => r :: snoc (r' :: rs) x

/-- `enc_fold(b)`: the record list by a left fold (R93). -/
def encFold (b : List Byte) : List Record := b.foldl snoc []

/-- `serialize(rs)` (R106). -/
def serialize (rs : List Record) : List Byte := rs.flatMap pack

/-- `encode(b)` (R94). -/
def encode (b : List Byte) : List Byte := serialize (encRuns b)

/-- The one error (R11, R150). -/
inductive Error where
  /-- The encoded buffer's length is not a multiple of 3. -/
  | malformedInput
deriving DecidableEq, Repr

/-- `deserialize(e)`, defined when the length is a multiple of 3 (R108). -/
def deserialize : List Byte → Option (List Record)
  | [] => some []
  | b0 :: b1 :: b2 :: rest => (deserialize rest).map (unpack b0 b1 b2 :: ·)
  | [_] => none
  | [_, _] => none

/-- The expansion of a record list: each value repeated `count` times, in order (R115, R144). -/
def expand (rs : List Record) : List Byte := rs.flatMap fun r => List.replicate r.count.toNat r.value

/-- `decode(e)` (R115): the guard on the length alone comes first (R116). -/
def decode (e : List Byte) : Except Error (List Byte) :=
  if e.length % Config.recBytes ≠ 0 then .error .malformedInput
  else
    match deserialize e with
    | some rs => .ok (expand rs)
    | none => .error .malformedInput

/-- A record list that some `encode` produces: counts at least 1, and equal neighbours only after a full record
(R133). -/
def canonicalRecords : List Record → Bool
  | [] => true
  | [r] => decide (Config.minEmitCount ≤ r.count.toNat)
  | r :: r' :: rs =>
    decide (Config.minEmitCount ≤ r.count.toNat) &&
      (decide (r.value ≠ r'.value) || decide (r.count.toNat = Config.maxCount)) && canonicalRecords (r' :: rs)

/-- A canonical Encoded Stream (R11, R133). -/
def canonical (e : List Byte) : Bool :=
  match deserialize e with
  | some rs => canonicalRecords rs
  | none => false

end Sys2Proof.Codec
end

