-- ==== Sys2Proof/Safety.lean ====
section
/-! DEFINITION. The terms the claims are stated in: the invariants of R32, the transition table of R84, being stuck
(R165), the measures of R139, what ties a transaction in progress to the function level (R99, R123), the live part of
the state (R35), and the well-behaved environment (R174). -/

namespace Sys2Proof.Machine

/-! ### Invariants of every reachable state (R32); I-a, and the bounds in I-d, I-e and I-i that are the types' own,
need no words here. I-j is about the step before and is stated of steps. -/

/-- I-b: `ST` in {IDLE, RESP} implies `REM = 0`. -/
abbrev State.InvB (s : State) : Prop := s.st = .idle ∨ s.st = .resp → s.rem = 0

/-- I-c: `ST` in {ENC_SCAN, DEC_FETCH} implies `REM > 0`. -/
abbrev State.InvC (s : State) : Prop := s.st = .encScan ∨ s.st = .decFetch → 0 < s.rem.toNat

/-- I-d: an open run has a count of at least 1, and `ST` is ENC_SCAN or ENC_EMIT. -/
abbrev State.InvD (s : State) : Prop :=
  s.runValid = true → 1 ≤ s.runCount.toNat ∧ (s.st = .encScan ∨ s.st = .encEmit)

/-- I-e: in ENC_EMIT the latched count is at least 1. -/
abbrev State.InvE (s : State) : Prop := s.st = .encEmit → 1 ≤ s.serCount.toNat

/-- I-f: outside ENC_EMIT `SER_IDX` is 0. -/
abbrev State.InvF (s : State) : Prop := s.st ≠ .encEmit → s.serIdx = .high

/-- I-g: outside DEC_FETCH `DES_IDX` is 0. -/
abbrev State.InvG (s : State) : Prop := s.st ≠ .decFetch → s.desIdx = .high

/-- I-h: the input still to come ends at a record boundary. -/
abbrev State.InvH (s : State) : Prop :=
  (s.st = .decFetch → (s.rem.toNat + s.desIdx.toNat) % 3 = 0) ∧ (s.st = .decExpand → s.rem.toNat % 3 = 0)

/-- I-i: in DEC_EXPAND at least one copy is still to be put. -/
abbrev State.InvI (s : State) : Prop := s.st = .decExpand → 1 ≤ s.expCount.toNat

/-- I-k: ENC_EMIT without an open run holds the last record. -/
abbrev State.InvK (s : State) : Prop := s.st = .encEmit ∧ s.runValid = false → s.rem = 0

/-- I-l: an error never coexists with data movement. -/
abbrev State.InvL (s : State) : Prop := s.status = .malformedInput → s.st = .resp ∨ s.st = .idle

/-- The invariants of R32 together. -/
abbrev State.Inv (s : State) : Prop :=
  s.InvB ∧ s.InvC ∧ s.InvD ∧ s.InvE ∧ s.InvF ∧ s.InvG ∧ s.InvH ∧ s.InvI ∧ s.InvK ∧ s.InvL

/-- `REM` and every offered length fit in `LEN_WIDTH` bits (R20, R62), which is their type. -/
def State.LengthsFit (s : State) : Prop :=
  s.rem.toNat < 2 ^ Config.lenWidth ∧ ∀ t ∈ s.cmd, t.len.toNat < 2 ^ Config.lenWidth

/-- The thirteen registers as R20 and R34 give them after reset, written out. -/
def State.ResetValues (s : State) : Prop :=
  s.st = .idle ∧ s.rem.toNat = 0 ∧ s.status.bit = 0 ∧ s.runValid = false ∧ s.runValue.toNat = 0 ∧
    s.runCount.toNat = 0 ∧ s.serCount.toNat = 0 ∧ s.serValue.toNat = 0 ∧ s.serIdx.toNat = 0 ∧ s.desIdx.toNat = 0 ∧
    s.desHi.toNat = 0 ∧ s.expCount.toNat = 0 ∧ s.expValue.toNat = 0

/-! ### Stuck (R165) -/

/-- No channel's handshake can be made at an edge like `e`: the block waits for a partner. -/
def State.Waiting (s : State) (e : Edge) : Prop := e.rst = false ∧ s.handshake e = false

/-- Waiting inside a transaction: stuck, never final (R165). -/
def State.Stuck (s : State) (e : Edge) : Prop := s.st ≠ .idle ∧ s.Waiting e

/-! ### Tokens -/

/-- The command channel is the same: the tokens, and whether one is being held on offer. -/
def State.SameCmd (s t : State) : Prop := t.cmd = s.cmd ∧ t.cmdHeld = s.cmdHeld

/-- The input channel is the same: the bytes, and whether one is being held on offer. -/
def State.SameDin (s t : State) : Prop := t.din = s.din ∧ t.dinHeld = s.dinHeld

/-- Exactly the byte `b` was taken from `din`, and no other channel moved. -/
def State.TookDin (s t : State) (b : Byte) : Prop :=
  s.din = b :: t.din ∧ t.cmd = s.cmd ∧ t.dout = s.dout ∧ t.rsp = s.rsp

/-- Exactly the byte `b` was put on `dout`, and no other channel moved. -/
def State.PutDout (s t : State) (b : Byte) : Prop :=
  t.dout = s.dout ++ [b] ∧ t.cmd = s.cmd ∧ t.din = s.din ∧ t.rsp = s.rsp

/-- Exactly the command `c` was taken from `cmd`, and no other channel moved. -/
def State.TookCmd (s t : State) (c : CmdToken) : Prop :=
  s.cmd = c :: t.cmd ∧ t.din = s.din ∧ t.dout = s.dout ∧ t.rsp = s.rsp

/-- Exactly the response `v` was put on `rsp`, and no other channel moved. -/
def State.PutRsp (s t : State) (v : Status) : Prop :=
  t.rsp = s.rsp ++ [v] ∧ t.cmd = s.cmd ∧ t.din = s.din ∧ t.dout = s.dout

/-- No token moved on any channel. -/
def State.NoToken (s t : State) : Prop := t.cmd = s.cmd ∧ t.din = s.din ∧ t.dout = s.dout ∧ t.rsp = s.rsp

/-- The thirteen registers are the same (R20). -/
def State.SameRegs (s t : State) : Prop :=
  t.st = s.st ∧ t.rem = s.rem ∧ t.status = s.status ∧ t.runValid = s.runValid ∧ t.runValue = s.runValue ∧
    t.runCount = s.runCount ∧ t.serCount = s.serCount ∧ t.serValue = s.serValue ∧ t.serIdx = s.serIdx ∧
    t.desIdx = s.desIdx ∧ t.desHi = s.desHi ∧ t.expCount = s.expCount ∧ t.expValue = s.expValue

/-- The encoder's and serializer's registers are the same. -/
def State.SameEncoder (s t : State) : Prop :=
  t.runValid = s.runValid ∧ t.runValue = s.runValue ∧ t.runCount = s.runCount ∧ t.serCount = s.serCount ∧
    t.serValue = s.serValue ∧ t.serIdx = s.serIdx

/-- The decoder's registers are the same. -/
def State.SameDecoder (s t : State) : Prop :=
  t.desIdx = s.desIdx ∧ t.desHi = s.desHi ∧ t.expCount = s.expCount ∧ t.expValue = s.expValue

/-- The environment's coming edges are the same. -/
def State.SameEnv (s t : State) : Prop := t.sched = s.sched ∧ t.rest = s.rest

/-- The four channels keep their law over a step (R41): tokens leave an input channel only from the head, and an
output channel only grows at the tail. -/
def State.ChannelLaw (s t : State) : Prop :=
  (∃ c, s.cmd = c ++ t.cmd) ∧ (∃ d, s.din = d ++ t.din) ∧ (∃ o, t.dout = s.dout ++ o) ∧ (∃ r, t.rsp = s.rsp ++ r)

/-! ### The transition table (R84) -/

/-- The rows of the table of R84 but the last, which is reset: from `s`, by one event, to `t`. "New" values are those
of `t`. -/
inductive TableRow (s t : State) : Prop where
  | encodeStarts (len : Len) : s.st = .idle → s.TookCmd t ⟨.encode, len⟩ → 0 < len.toNat → t.st = .encScan →
      TableRow s t
  | encodeEmpty : s.st = .idle → s.TookCmd t ⟨.encode, 0⟩ → t.st = .resp → TableRow s t
  | decodeRefused (len : Len) : s.st = .idle → s.TookCmd t ⟨.decode, len⟩ → len.toNat % 3 ≠ 0 → t.st = .resp →
      t.status = .malformedInput → TableRow s t
  | decodeEmpty : s.st = .idle → s.TookCmd t ⟨.decode, 0⟩ → t.st = .resp → TableRow s t
  | decodeStarts (len : Len) : s.st = .idle → s.TookCmd t ⟨.decode, len⟩ → 0 < len.toNat → len.toNat % 3 = 0 →
      t.st = .decFetch → TableRow s t
  | scanOn (b : Byte) : s.st = .encScan → s.TookDin t b →
      (s.runValid = false ∨ b = s.runValue ∧ s.runCount.toNat < 65535) → 0 < t.rem.toNat → t.st = .encScan →
      TableRow s t
  | scanFlush (b : Byte) : s.st = .encScan → s.TookDin t b →
      (s.runValid = false ∨ b = s.runValue ∧ s.runCount.toNat < 65535) → t.rem = 0 → t.st = .encEmit → TableRow s t
  | scanClose (b : Byte) : s.st = .encScan → s.TookDin t b → s.runValid = true →
      (b ≠ s.runValue ∨ s.runCount.toNat = 65535) → t.st = .encEmit → TableRow s t
  | emitOn (b : Byte) : s.st = .encEmit → s.PutDout t b → s.serIdx.toNat < 2 → t.st = .encEmit → TableRow s t
  | emitScan (b : Byte) : s.st = .encEmit → s.PutDout t b → s.serIdx.toNat = 2 → 0 < s.rem.toNat → t.st = .encScan →
      TableRow s t
  | emitFlush (b : Byte) : s.st = .encEmit → s.PutDout t b → s.serIdx.toNat = 2 → s.rem = 0 → s.runValid = true →
      t.st = .encEmit → TableRow s t
  | emitDone (b : Byte) : s.st = .encEmit → s.PutDout t b → s.serIdx.toNat = 2 → s.rem = 0 → s.runValid = false →
      t.st = .resp → TableRow s t
  | fetchOn (b : Byte) : s.st = .decFetch → s.TookDin t b → s.desIdx.toNat < 2 → t.st = .decFetch → TableRow s t
  | fetchExpand (b : Byte) : s.st = .decFetch → s.TookDin t b → s.desIdx.toNat = 2 → 0 < s.expCount.toNat →
      t.st = .decExpand → TableRow s t
  | fetchNext (b : Byte) : s.st = .decFetch → s.TookDin t b → s.desIdx.toNat = 2 → s.expCount.toNat = 0 →
      0 < t.rem.toNat → t.st = .decFetch → TableRow s t
  | fetchDone (b : Byte) : s.st = .decFetch → s.TookDin t b → s.desIdx.toNat = 2 → s.expCount.toNat = 0 →
      t.rem = 0 → t.st = .resp → TableRow s t
  | expandOn (b : Byte) : s.st = .decExpand → s.PutDout t b → 0 < t.expCount.toNat → t.st = .decExpand → TableRow s t
  | expandNext (b : Byte) : s.st = .decExpand → s.PutDout t b → t.expCount.toNat = 0 → 0 < s.rem.toNat →
      t.st = .decFetch → TableRow s t
  | expandDone (b : Byte) : s.st = .decExpand → s.PutDout t b → t.expCount.toNat = 0 → s.rem = 0 → t.st = .resp →
      TableRow s t
  | respond : s.st = .resp → s.PutRsp t s.status → t.st = .idle → TableRow s t

/-! ### Progress (R139) -/

/-- The ENCODE measure: `4 * REM + 3 * [RUN_VALID = 1] + (3 - SER_IDX) * [ST = ENC_EMIT]` (R139). -/
def State.encMeasure (s : State) : Nat :=
  4 * s.rem.toNat + (if s.runValid then 3 else 0) + (if s.st = .encEmit then 3 - s.serIdx.toNat else 0)

/-- The second part of the DECODE measure: `EXP_COUNT` in DEC_EXPAND, else 0 (R139). -/
def State.decMeasure (s : State) : Nat := if s.st = .decExpand then s.expCount.toNat else 0

/-! ### The two levels in the middle of a transaction (R99, R123) -/

/-- `latch` of R99. -/
def State.latchList (s : State) : List Record := if s.st = .encEmit then [s.latched] else []

/-- `open` of R99. -/
def State.openList (s : State) : List Record := if s.runValid then [s.openRecord] else []

/-- R99, (a) and (b): of the bytes `p` taken so far, the records `done` have been put, and what `dout` holds past
`base`, its contents at the command, is their bytes and the first `SER_IDX` bytes of the latched record. And scanning
without an open run means that no byte has been taken (R32 I-j). -/
def State.EncodesSoFar (base p : List Byte) (s : State) : Prop :=
  (s.st = .encScan → s.runValid = false → p = []) ∧
  ∃ done : List Record, done ++ s.latchList ++ s.openList = Codec.encFold p ∧
    s.dout = base ++ Codec.serialize done ++ (if s.st = .encEmit then (pack s.latched).take s.serIdx.toNat else [])

/-- R123: of the bytes `p` taken so far, with `rs` the complete records among them, what `dout` holds past `base` is
their expansion, less the `EXP_COUNT` copies of the last record still to be put in DEC_EXPAND; and the bytes of the
record in progress are in `DES_HI` and `EXP_COUNT`. -/
def State.DecodesSoFar (base p : List Byte) (s : State) : Prop :=
  ∃ (rs : List Record) (part : List Byte), p = Codec.serialize rs ++ part ∧ part.length = s.desIdx.toNat ∧
    (1 ≤ s.desIdx.toNat → part.head? = some s.desHi) ∧
    (s.desIdx.toNat = 2 → ∃ b0 b1, part = [b0, b1] ∧ s.expCount = countOf b0 b1) ∧
    (if s.st = .decExpand then
      ∃ rs' r, rs = rs' ++ [r] ∧ r.value = s.expValue ∧ s.expCount.toNat ≤ r.count.toNat ∧
        s.dout = base ++ Codec.expand rs' ++ List.replicate (r.count.toNat - s.expCount.toNat) r.value
     else s.dout = base ++ Codec.expand rs)

/-! ### The live part of the state (R35) -/

/-- Two states agree on every register that a step can still read before it is written, and on the channels and the
environment (R35). -/
def State.AgreeLive (s t : State) : Prop :=
  t.st = s.st ∧ t.rem = s.rem ∧ t.status = s.status ∧ t.runValid = s.runValid ∧ t.serIdx = s.serIdx ∧
    t.desIdx = s.desIdx ∧
    (s.runValid = true → t.runValue = s.runValue ∧ t.runCount = s.runCount) ∧
    (s.st = .encEmit → t.serCount = s.serCount ∧ t.serValue = s.serValue) ∧
    (s.st = .decFetch ∧ s.desIdx = .low → t.desHi = s.desHi) ∧
    (s.st = .decFetch ∧ s.desIdx = .value → t.expCount = s.expCount) ∧
    (s.st = .decExpand → t.expCount = s.expCount ∧ t.expValue = s.expValue) ∧
    t.cmd = s.cmd ∧ t.din = s.din ∧ t.dout = s.dout ∧ t.rsp = s.rsp ∧ t.cmdHeld = s.cmdHeld ∧
    t.dinHeld = s.dinHeld ∧ t.sched = s.sched ∧ t.rest = s.rest

/-- Two idle states that differ at most in registers: same channels, same environment. -/
def State.SameOutside (s t : State) : Prop :=
  t.cmd = s.cmd ∧ t.din = s.din ∧ t.dout = s.dout ∧ t.rsp = s.rsp ∧ t.cmdHeld = s.cmdHeld ∧
    t.dinHeld = s.dinHeld ∧ t.sched = s.sched ∧ t.rest = s.rest

/-! ### Runs -/

/-- `n` steps, stopping at a fault or a refusal: the host's `Core.run` of this machine, at the machine's own types. -/
def runSteps : Nat → State → Host.Outcome State Fault Refusal
  | 0, s => .next s
  | n + 1, s =>
    match step s with
    | .next t => runSteps n t
    | .fault r => .fault r
    | .refused r => .refused r

/-! ### The well-behaved environment (R136, R174) -/

/-- No reset at any coming edge, and every partner willing once the coming delays are over (R175 to R178). -/
def State.Dutiful (s : State) : Prop := (∀ e ∈ s.sched, e.rst = false) ∧ s.rest = Edge.willing

/-- Every partner willing at once: no delay at all. -/
def State.Prompt (s : State) : Prop := s.sched = [] ∧ s.rest = Edge.willing

end Sys2Proof.Machine
end

