-- ==== Sys2Proof/Certificates/Slice0/Obligations.lean ====
section
/-! DEFINITION. The statements for the provers. Each docstring names the rule or the section of spec/ it formalises;
where a statement rests on a choice of the model's or on an inference the spec marks as its own, it says so. -/

open Sys2Proof Sys2Proof.Machine

/-! ### Encodings -/

/-- Words written out from the encodings of 30_encoding.md section 1 and the vectors of 95_test_vectors.md sections 2.2
and 3: command words at `LEN_WIDTH` = 32, record words, a step word and the status words. -/
def Obligations.SampleWordsDecode : Prop :=
  decodeWordAt 32 .cmd 0x000000004 = .ok (.encode 4) ∧
  decodeWordAt 32 .cmd 0x100000006 = .ok (.decode 6) ∧
  decodeWordAt 32 .record 0x000341 = .ok (.record 3 0x41) ∧
  decodeWordAt 32 .record 0x010210 = .ok (.record 258 0x10) ∧
  decodeWordAt 32 .record 0x1171FF = .ok (.record 4465 0xFF) ∧
  decodeWordAt 32 .step 0b011 = .ok .desTake ∧
  decodeWordAt 32 .rsp 0b1 = .ok .rspMalformed

/-- Every operation that fits the block's wires is what its own word decodes to, at whatever `LEN_WIDTH` the block has
(formats of 30_encoding.md sections 1 and 2). -/
def Obligations.EveryOperationDecodesFromItsWord : Prop :=
  ∀ i : Instr, i.wf = true → decodeWord i.format (encodeWord i) = .ok i

/-- A word that decodes is the word of the operation it decodes to, which has that format and fits the wires; so no
bit of a word is dropped and no two words of a format share a meaning (30_encoding.md sections 1 and 2). -/
def Obligations.DecodedWordIsTheOperationsWord : Prop :=
  ∀ (f : Format) (w : Nat) (i : Instr), decodeWord f w = .ok i →
    i.format = f ∧ i.wf = true ∧ encodeWord i = w

/-- R65, the whole table: the code of each value of ST, the operation each code selects, the command selected in IDLE,
the codes that select nothing, and the sub-indices: of which there is no fourth, and which byte of a record each is. -/
def Obligations.StepCodesAndSubIndices : Prop :=
  (Phase.idle.code = 0b000 ∧ Phase.encScan.code = 0b001 ∧ Phase.encEmit.code = 0b010 ∧
    Phase.decFetch.code = 0b011 ∧ Phase.decExpand.code = 0b100 ∧ Phase.resp.code = 0b101) ∧
  (decodeWord .step 0b001 = .ok .encTake ∧ decodeWord .step 0b010 = .ok .serPut ∧
    decodeWord .step 0b011 = .ok .desTake ∧ decodeWord .step 0b100 = .ok .expPut ∧
    decodeWord .step 0b101 = .ok .ctlResp) ∧
  decodeWord .step 0b000 = .error .idleSelectsCommand ∧
  (∀ (s : State) (c : CmdToken) (q : List CmdToken), s.st = .idle → s.cmd = c :: q →
    s.selected = some (match c.op with
      | .encode => Instr.encode c.len.toNat
      | .decode => Instr.decode c.len.toNat)) ∧
  (∀ w, w = 0b110 ∨ w = 0b111 → decodeWord .step w = .error .unusedStateCode ∧ ∀ p : Phase, p.code ≠ w) ∧
  (RecIdx.high.toNat = 0 ∧ RecIdx.low.toNat = 1 ∧ RecIdx.value.toNat = 2 ∧ ∀ k : RecIdx, k.toNat ≠ 3) ∧
  (∀ s : State, (s.serIdx.toNat = 0 → s.serByte = highByte s.serCount) ∧
    (s.serIdx.toNat = 1 → s.serByte = lowByte s.serCount) ∧ (s.serIdx.toNat = 2 → s.serByte = s.serValue)) ∧
  (∀ (s : State) (b : Byte), (s.desIdx.toNat = 0 → (s.fetchByte b).desHi = b) ∧
    (s.desIdx.toNat = 1 → (s.fetchByte b).expCount = countOf s.desHi b) ∧
    (s.desIdx.toNat = 2 → (s.fetchByte b).expValue = b))

/-- R105 and R107: the three bytes of a record as numbers, most significant count byte first; `pack` is injective;
the encoder packs no count 0; and the record three bytes stand for, whatever they are. -/
def Obligations.PackAndUnpackAreBigEndian : Prop :=
  (∀ (c : Count) (v : Byte), (pack ⟨c, v⟩).map BitVec.toNat = [c.toNat / 256, c.toNat % 256, v.toNat]) ∧
  (∀ r r' : Record, pack r = pack r' → r = r') ∧
  (∀ (b : List Byte), ∀ r ∈ Codec.encRuns b, 1 ≤ r.count.toNat ∧ r.count.toNat ≤ 65535) ∧
  (∀ b0 b1 b2 : Byte, (unpack b0 b1 b2).count.toNat = 256 * b0.toNat + b1.toNat ∧ (unpack b0 b1 b2).value = b2)

/-- The inverse laws of records, record lists and byte sequences: the sentence of 42_serializer.md section 1 that is
marked "[derived: from rules R105, R107]". -/
def Obligations.SerializeAndDeserializeAreInverse : Prop :=
  (∀ r : Record, unpack (highByte r.count) (lowByte r.count) r.value = r) ∧
  (∀ b0 b1 b2 : Byte, pack (unpack b0 b1 b2) = [b0, b1, b2]) ∧
  (∀ rs : List Record, Codec.deserialize (Codec.serialize rs) = some rs) ∧
  (∀ e : List Byte, e.length % 3 = 0 → ∃ rs, Codec.deserialize e = some rs ∧ Codec.serialize rs = e)

/-! ### Reset, the outputs, and what a step is -/

/-- R172: what the registers hold after reset, that the first thing the block can do from there is take a command, and
that with a command on offer and no reset the step takes it. -/
def Obligations.AfterResetOnlyACommandIsTaken : Prop :=
  (State.reset.st = .idle ∧ State.reset.status = .ok ∧ State.reset.runValid = false) ∧
  (∀ s t : State, s.ResetValues → s.edge.rst = false → step s = .next t →
    (s.NoToken t ∧ s.SameRegs t) ∨ ∃ c, s.TookCmd t c) ∧
  (∀ (s : State) (c : CmdToken) (q : List CmdToken), s.ResetValues → s.edge.rst = false → s.cmd = c :: q →
    (s.cmdHeld = true ∨ s.edge.cmdOffer = true) → ∃ t, step s = .next t ∧ s.TookCmd t c)

/-- An edge with `rst = 1` in any state (70_reset_and_hazards.md section 1, 10_state.md section 1): every one of the
thirteen registers takes the value written out here, no token is transferred, whatever the partners do. Model's choice:
`rst`, the tokens withdrawn during reset and what is held on offer are the environment's (log 4, log 5, log 6). -/
def Obligations.ResetEdgeFromAnyState : Prop :=
  ∀ s : State, s.edge.rst = true → ∃ t, step s = .next t ∧
    (t.st = .idle ∧ t.rem = 0 ∧ t.status = .ok ∧ t.runValid = false ∧ t.runValue = 0x00 ∧ t.runCount = 0 ∧
      t.serCount = 0 ∧ t.serValue = 0x00 ∧ t.serIdx = .high ∧ t.desIdx = .high ∧ t.desHi = 0x00 ∧ t.expCount = 0 ∧
      t.expValue = 0x00) ∧
    t.cmd = s.cmd.drop s.edge.cmdWithdraw ∧ t.din = s.din.drop s.edge.dinWithdraw ∧ t.dout = s.dout ∧
    t.rsp = s.rsp ∧ t.sched = s.sched.tail ∧ t.rest = s.rest ∧
    (s.edge.cmdWithdraw = 0 → s.cmdValid s.edge = true → t.cmdValid t.edge = true) ∧
    (s.edge.dinWithdraw = 0 → s.dinValid s.edge = true → t.dinValid t.edge = true)

/-- R43: the six outputs, which depend on the registers alone; exactly one channel can transfer; at most one token moves
at an edge, and what is put is what the outputs show. -/
def Obligations.OutputsAndOneTokenPerEdge : Prop :=
  (∀ s : State,
    (s.cmdReady = true ↔ s.st = .idle) ∧
    (s.dinReady = true ↔ s.st = .encScan ∨ s.st = .decFetch) ∧
    (s.doutValid = true ↔ s.st = .encEmit ∨ s.st = .decExpand) ∧
    (s.st = .encEmit → s.doutData = some (match s.serIdx with
      | .high => BitVec.extractLsb' 8 8 s.serCount
      | .low => BitVec.extractLsb' 0 8 s.serCount
      | .value => s.serValue)) ∧
    (s.st = .decExpand → s.doutData = some s.expValue) ∧
    (s.rspValid = true ↔ s.st = .resp) ∧
    (s.st = .resp → s.rspStatus = some s.status) ∧
    [s.cmdReady, s.dinReady, s.doutValid, s.rspValid].count true = 1) ∧
  (∀ s t : State, s.SameRegs t → t.cmdReady = s.cmdReady ∧ t.dinReady = s.dinReady ∧ t.doutValid = s.doutValid ∧
    t.doutData = s.doutData ∧ t.rspValid = s.rspValid ∧ t.rspStatus = s.rspStatus) ∧
  (∀ s t : State, s.edge.rst = false → step s = .next t →
    s.NoToken t ∨ (∃ c, s.cmdReady = true ∧ s.TookCmd t c) ∨ (∃ b, s.dinReady = true ∧ s.TookDin t b) ∨
      (∃ b, s.doutData = some b ∧ s.PutDout t b) ∨ (∃ v, s.rspStatus = some v ∧ s.PutRsp t v))

/-- The channel law (20_memory.md section 1): over every operation input channels lose tokens only from the head and
output channels gain them only at the tail; and over every step without reset, on every one of the four channels, a
token offered and not taken is still offered, the same one (R42, R185, H7). Model's choice: when the host and the
provider raise `valid` is the environment's edge, and that they keep it is held in the state (log 4, log 5). -/
def Obligations.OperationsKeepTheChannelLaw : Prop :=
  (∀ (i : Instr) (s t : State), exec i s = .next t → s.ChannelLaw t) ∧
  (∀ s t : State, s.edge.rst = false → step s = .next t →
    s.ChannelLaw t ∧
    (s.cmdValid s.edge = true → t.cmd = s.cmd → t.cmdValid t.edge = true) ∧
    (s.dinValid s.edge = true → t.din = s.din → t.dinValid t.edge = true) ∧
    (s.doutValid = true → t.dout = s.dout → t.doutValid = true ∧ t.doutData = s.doutData) ∧
    (s.rspValid = true → t.rsp = s.rsp → t.rspValid = true ∧ t.rspStatus = s.rspStatus))

/-- A step performs the operation that the machine's own encoding selects: outside IDLE the one that the code of ST
decodes to, in IDLE the one that the command's wires `{op, len}` decode to; around it the step only uses up the
coming edge (`tick`). Model's choice: the edge and `tick` (log 4, log 5). -/
def Obligations.StepRunsTheDecodedOperation : Prop :=
  (∀ (s : State) (i : Instr), s.edge.rst = false → s.st ≠ .idle → s.handshake s.edge = true →
    decodeWord .step s.st.code = .ok i → step s = exec i s.tick) ∧
  (∀ (s : State) (c : CmdToken) (q : List CmdToken) (i : Instr), s.edge.rst = false → s.st = .idle →
    s.cmd = c :: q → (s.cmdHeld = true ∨ s.edge.cmdOffer = true) →
    decodeWord .cmd c.word = .ok i → step s = exec i s.tick)

/-- Waiting (60_exceptions.md section 6, 40_transaction_control.md section 4): where no channel's handshake is made and
there is no reset, no register changes and no token moves; and if no coming edge is any different, the block waits for
ever. Model's choice: the environment's edges and `tick`, which uses one up (log 4, log 5). -/
def Obligations.WaitingMovesNothing : Prop :=
  (∀ s : State, s.Waiting s.edge → step s = .next s.tick ∧ s.SameRegs s.tick ∧ s.NoToken s.tick) ∧
  (∀ (s : State) (n : Nat), s.sched = [] → s.Stuck s.rest →
    ∃ t, runSteps n s = .next t ∧ s.SameRegs t ∧ s.NoToken t ∧ t.Stuck t.rest)

/-- Progress (44_codec_laws.md section 2, the sentence marked "[derived: from rules R84, R97, R98, R110, R120,
R122]"): in every state of the invariant other than IDLE, and in IDLE when a command is on offer, a made handshake
moves a token. -/
def Obligations.WillingPartnerMeansProgress : Prop :=
  ∀ s : State, s.Inv → s.edge.rst = false → s.handshake s.edge = true →
    ∃ t, step s = .next t ∧ ¬ s.NoToken t

/-- Nothing ever stops the machine: in every state every operation and every step has a next state
(60_exceptions.md section 4, the sentence marked "[derived: from rules R150, R165]"). -/
def Obligations.NothingFaultsOrIsRefused : Prop :=
  ∀ s : State, (∃ t, step s = .next t) ∧ ∀ i : Instr, ∃ t, exec i s = .next t

/-! ### Invariants -/

/-- The invariants of 10_state.md section 4 hold after reset. -/
def Obligations.InvariantHoldsAtReset : Prop := State.reset.Inv

/-- The invariants of 10_state.md section 4 are kept by every operation and by every step, from every state that has
them (the table marked "[derived: from rules R81, R82, R83, R97, R98, R110, R120, R121, R122]"). -/
def Obligations.EveryStepKeepsTheInvariant : Prop :=
  (∀ (i : Instr) (s t : State), s.Inv → exec i s = .next t → t.Inv) ∧
  (∀ s t : State, s.Inv → step s = .next t → t.Inv)

/-- Lengths are `LEN_WIDTH` bits wide (10_state.md sections 1 and 2, 30_encoding.md section 1): `REM` and every
offered length fit, at reset, after every step and in every state, which their type `Len` alone gives; and a command
of a length of `2^LEN_WIDTH` or more, which is not well-formed and not expressible in `cmd_len` (U8 of
93_implementation_defined.md section 1, R186 in 70_reset_and_hazards.md section 4), is never the operation selected
and moves nothing. Model's choice: `LEN_WIDTH` has no value (log 1); an operation that is not on offer waits (log 8);
the last clause is of the model's helper `place`, which stands for offering a command from outside (log 18) and leaves
the state as it is for such a length. -/
def Obligations.RemainingCountFitsItsWidth : Prop :=
  State.reset.LengthsFit ∧ (∀ s t : State, s.LengthsFit → step s = .next t → t.LengthsFit) ∧
  (∀ s : State, s.LengthsFit) ∧
  (∀ (i : Instr) (s : State), i.wf = false → exec i s = .next s ∧ s.selected ≠ some i ∧ s.place i = s)

/-- I-j of 10_state.md section 4: scanning without an open run comes only directly from an ENCODE command of positive
length, or from waiting there. -/
def Obligations.ScanWithoutRunOnlyAfterEncode : Prop :=
  ∀ s t : State, s.Inv → step s = .next t → t.st = .encScan → t.runValid = false →
    (s.st = .idle ∧ ∃ len : Len, 0 < len.toNat ∧ s.TookCmd t ⟨.encode, len⟩) ∨ (s.SameRegs t ∧ s.NoToken t)

/-! ### What each operation does -/

/-- R81: ENCODE, taken in IDLE, for every length that `cmd_len` carries. -/
def Obligations.EncodeCommandStarts : Prop :=
  ∀ (s : State) (len : Len) (q : List CmdToken), s.st = .idle → s.cmd = ⟨.encode, len⟩ :: q →
    exec (.encode len.toNat) s = .next { s with
      cmd := q, cmdHeld := false, status := .ok, runValid := false, serIdx := .high, desIdx := .high, rem := len,
      st := if len.toNat = 0 then .resp else .encScan }

/-- R82: DECODE, taken in IDLE, for every length that `cmd_len` carries: the exception's entry when the length is not a
multiple of 3, else the start. -/
def Obligations.DecodeCommandStartsOrRaises : Prop :=
  ∀ (s : State) (len : Len) (q : List CmdToken), s.st = .idle → s.cmd = ⟨.decode, len⟩ :: q →
    exec (.decode len.toNat) s = .next (
      if len.toNat % 3 ≠ 0 then
        { s with cmd := q, cmdHeld := false, runValid := false, serIdx := .high, desIdx := .high,
                 status := .malformedInput, rem := 0, st := .resp }
      else
        { s with cmd := q, cmdHeld := false, runValid := false, serIdx := .high, desIdx := .high, status := .ok,
                 rem := len, st := if len.toNat = 0 then .resp else .decFetch })

/-- R97: ENC.TAKE, its three cases, every byte value alike. -/
def Obligations.EncTakeOpensExtendsOrCloses : Prop :=
  ∀ (s : State) (b : Byte) (d : List Byte), s.st = .encScan → 0 < s.rem.toNat → s.din = b :: d →
    exec .encTake s = .next (
      if s.runValid = false then
        State.encAdvance { s with
          din := d, dinHeld := false, rem := s.rem - 1, runValid := true, runValue := b, runCount := 1 }
      else if b = s.runValue ∧ s.runCount.toNat < 65535 then
        State.encAdvance { s with din := d, dinHeld := false, rem := s.rem - 1, runCount := s.runCount + 1 }
      else
        { s with din := d, dinHeld := false, rem := s.rem - 1, serCount := s.runCount, serValue := s.runValue,
                 serIdx := .high, runValue := b, runCount := 1, st := .encEmit })

/-- R98 and R121: the two "what next" procedures. -/
def Obligations.WhatNextProcedures : Prop :=
  ∀ s : State,
    (0 < s.rem.toNat → s.encAdvance = { s with st := .encScan }) ∧
    (s.rem = 0 → s.runValid = true → s.encAdvance = { s with
      serCount := s.runCount, serValue := s.runValue, serIdx := .high, runValid := false, st := .encEmit }) ∧
    (s.rem = 0 → s.runValid = false → s.encAdvance = { s with st := .resp }) ∧
    (0 < s.rem.toNat → s.decAdvance = { s with st := .decFetch }) ∧
    (s.rem = 0 → s.decAdvance = { s with st := .resp })

/-- R110: SER.PUT, its three bytes. -/
def Obligations.SerPutPutsTheThreeBytes : Prop :=
  ∀ s : State, s.st = .encEmit →
    exec .serPut s = .next (
      match s.serIdx with
      | .high => { s with dout := s.dout ++ [BitVec.extractLsb' 8 8 s.serCount], serIdx := .low }
      | .low => { s with dout := s.dout ++ [BitVec.extractLsb' 0 8 s.serCount], serIdx := .value }
      | .value => State.encAdvance { s with dout := s.dout ++ [s.serValue], serIdx := .high })

/-- R120: DES.TAKE, its three bytes; after the third the copies, or for a count 0 what comes next. -/
def Obligations.DesTakeUnpacksTheRecord : Prop :=
  ∀ (s : State) (b : Byte) (d : List Byte), s.st = .decFetch → 0 < s.rem.toNat → s.din = b :: d →
    exec .desTake s = .next (
      match s.desIdx with
      | .high => { s with din := d, dinHeld := false, rem := s.rem - 1, desHi := b, desIdx := .low }
      | .low => { s with din := d, dinHeld := false, rem := s.rem - 1, expCount := s.desHi ++ b, desIdx := .value }
      | .value =>
        if 0 < s.expCount.toNat then
          { s with din := d, dinHeld := false, rem := s.rem - 1, expValue := b, desIdx := .high, st := .decExpand }
        else State.decAdvance { s with
          din := d, dinHeld := false, rem := s.rem - 1, expValue := b, desIdx := .high })

/-- R122: EXP.PUT, one copy. -/
def Obligations.ExpPutPutsOneCopy : Prop :=
  ∀ s : State, s.st = .decExpand → 1 ≤ s.expCount.toNat →
    exec .expPut s = .next (
      if s.expCount - 1 = 0 then
        State.decAdvance { s with dout := s.dout ++ [s.expValue], expCount := s.expCount - 1 }
      else { s with dout := s.dout ++ [s.expValue], expCount := s.expCount - 1 })

/-- R83: CTL.RESP puts the status and returns to IDLE; STATUS keeps its value. -/
def Obligations.CtlRespPutsStatusAndReturns : Prop :=
  ∀ s : State, s.st = .resp →
    exec .ctlResp s = .next { s with rsp := s.rsp ++ [s.status], st := .idle }

/-- The response tokens (30_encoding.md rule table of section 3): each is the response step when STATUS is its status.
Model's reading: the row of a token is the transfer of that token (log 11). -/
def Obligations.ResponseTokensAreTheResponseStep : Prop :=
  (∀ s : State, s.st = .resp → s.status = .ok →
    exec .rspOk s = .next { s with rsp := s.rsp ++ [.ok], st := .idle } ∧ exec .rspOk s = exec .ctlResp s) ∧
  (∀ s : State, s.st = .resp → s.status = .malformedInput →
    exec .rspMalformed s = .next { s with rsp := s.rsp ++ [.malformedInput], st := .idle } ∧
      exec .rspMalformed s = exec .ctlResp s)

/-- A record on `din` at a record boundary is unpacked whole, and a record in the latch is packed and put whole.
Model's choice: the row REC is the record's three beats together (log 10). -/
def Obligations.RecordIsUnpackedOrPacked : Prop :=
  (∀ (s : State) (c : Count) (v : Byte) (d : List Byte), s.st = .decFetch → s.desIdx = .high →
    3 ≤ s.rem.toNat → s.din = pack ⟨c, v⟩ ++ d →
    exec (.record c v) s = .next { s with
      din := d, dinHeld := false, rem := s.rem - 3, desHi := highByte c, expCount := c, expValue := v,
      st := if c ≠ 0 then .decExpand else if 3 < s.rem.toNat then .decFetch else .resp }) ∧
  (∀ (s : State) (c : Count) (v : Byte), s.st = .encEmit → s.serIdx = .high → s.serCount = c → s.serValue = v →
    exec (.record c v) s = .next (State.encAdvance { s with dout := s.dout ++ pack ⟨c, v⟩, serIdx := .high }))

/-- The row REC, which the model makes one operation (log 10), is exactly three steps of the machine when no partner
delays them (20_memory.md section 3: a record is three transfers). Model's choice: the prompt environment and `tick`
(log 4, log 5). -/
def Obligations.RecordIsThreeSteps : Prop :=
  ∀ (s : State) (c : Count) (v : Byte), s.Prompt → (s.offersRecord ⟨c, v⟩ = true ∨ s.holdsRecord ⟨c, v⟩ = true) →
    runSteps 3 s = exec (.record c v) s.tick

/-- An operation whose event is not on offer does not move the state (40_transaction_control.md section 4: "A state with
no matching event ... does not move"): its token is not at the head of its channel, ST does not select it, or its
counter is 0; for REC, the record is neither the next thing on `din` at a record boundary nor whole in the latch.
Model's reading, and in the states that no run reaches its choice (log 8, log 9); of REC its choice (log 10). -/
def Obligations.OperationNotOnOfferWaits : Prop :=
  (∀ (s : State) (len : Nat), (s.st ≠ .idle ∨ ∀ l : Len, l.toNat = len → s.cmd.head? ≠ some ⟨.encode, l⟩) →
    exec (.encode len) s = .next s) ∧
  (∀ (s : State) (len : Nat), (s.st ≠ .idle ∨ ∀ l : Len, l.toNat = len → s.cmd.head? ≠ some ⟨.decode, l⟩) →
    exec (.decode len) s = .next s) ∧
  (∀ s : State, (s.st ≠ .encScan ∨ s.rem = 0 ∨ s.din = []) → exec .encTake s = .next s) ∧
  (∀ s : State, s.st ≠ .encEmit → exec .serPut s = .next s) ∧
  (∀ s : State, (s.st ≠ .decFetch ∨ s.rem = 0 ∨ s.din = []) → exec .desTake s = .next s) ∧
  (∀ s : State, (s.st ≠ .decExpand ∨ s.expCount = 0) → exec .expPut s = .next s) ∧
  (∀ s : State, s.st ≠ .resp → exec .ctlResp s = .next s) ∧
  (∀ s : State, (s.st ≠ .resp ∨ s.status ≠ .ok) → exec .rspOk s = .next s) ∧
  (∀ s : State, (s.st ≠ .resp ∨ s.status ≠ .malformedInput) → exec .rspMalformed s = .next s) ∧
  (∀ (s : State) (c : Count) (v : Byte), s.st ≠ .decFetch → s.st ≠ .encEmit → exec (.record c v) s = .next s) ∧
  (∀ (s : State) (c : Count) (v : Byte), s.offersRecord ⟨c, v⟩ = false → s.holdsRecord ⟨c, v⟩ = false →
    exec (.record c v) s = .next s)

/-! ### Frames -/

/-- What ENCODE and DECODE leave unchanged: the datapath registers but REM, the data channels, the responses, the
environment; and of the command channel only a taken head is gone (10_state.md section 1, the column of writers). -/
def Obligations.CommandFrame : Prop :=
  ∀ (i : Instr) (len : Nat) (s t : State), i = .encode len ∨ i = .decode len → exec i s = .next t →
    t.runValue = s.runValue ∧ t.runCount = s.runCount ∧ t.serCount = s.serCount ∧ t.serValue = s.serValue ∧
    t.desHi = s.desHi ∧ t.expCount = s.expCount ∧ t.expValue = s.expValue ∧
    (s.SameCmd t ∨ s.st = .idle ∧ t.cmdHeld = false ∧ ∃ l : Len, l.toNat = len ∧
      s.cmd = ⟨if i = .encode len then .encode else .decode, l⟩ :: t.cmd) ∧
    s.SameDin t ∧ t.dout = s.dout ∧ t.rsp = s.rsp ∧ s.SameEnv t

/-- What ENC.TAKE leaves unchanged: STATUS, the decoder's registers, the command channel, the output channels, the
environment; the latch unless a run is handed to it; and of `din` only a taken head is gone (10_state.md section 1). -/
def Obligations.EncTakeFrame : Prop :=
  ∀ s t : State, exec .encTake s = .next t →
    t.status = s.status ∧ s.SameDecoder t ∧ s.SameCmd t ∧ t.dout = s.dout ∧ t.rsp = s.rsp ∧ s.SameEnv t ∧
    (t.st ≠ .encEmit → t.serCount = s.serCount ∧ t.serValue = s.serValue ∧ t.serIdx = s.serIdx) ∧
    (s.SameDin t ∧ t.rem = s.rem ∨ t.din = s.din.tail ∧ t.dinHeld = false ∧ t.rem = s.rem - 1)

/-- What SER.PUT leaves unchanged: REM, STATUS, the open run's value and count, the decoder's registers, the input
channels, the responses, the environment; the latch unless the flush reloads it; and `dout` but for one byte at the
end (10_state.md section 1). -/
def Obligations.SerPutFrame : Prop :=
  ∀ s t : State, exec .serPut s = .next t →
    t.rem = s.rem ∧ t.status = s.status ∧ t.runValue = s.runValue ∧ t.runCount = s.runCount ∧ s.SameDecoder t ∧
    s.SameCmd t ∧ s.SameDin t ∧ t.rsp = s.rsp ∧ s.SameEnv t ∧
    (t.dout = s.dout ∨ t.dout = s.dout ++ [s.serByte]) ∧
    (s.serIdx ≠ .value ∨ 0 < s.rem.toNat ∨ s.runValid = false →
      t.serCount = s.serCount ∧ t.serValue = s.serValue ∧ t.runValid = s.runValid)

/-- What DES.TAKE and EXP.PUT leave unchanged: STATUS, the encoder's and the serializer's registers, the command
channel, the responses, the environment; DES.TAKE also `dout`, and each register of its own that the index does not
name; EXP.PUT also REM, `din` and every register but EXP_COUNT and ST (10_state.md section 1). -/
def Obligations.DecoderFrame : Prop :=
  (∀ s t : State, exec .desTake s = .next t →
    t.status = s.status ∧ s.SameEncoder t ∧ s.SameCmd t ∧ t.dout = s.dout ∧ t.rsp = s.rsp ∧ s.SameEnv t ∧
    (s.desIdx ≠ .high → t.desHi = s.desHi) ∧ (s.desIdx ≠ .low → t.expCount = s.expCount) ∧
    (s.desIdx ≠ .value → t.expValue = s.expValue ∧ t.st = s.st) ∧
    (s.SameDin t ∧ t.rem = s.rem ∨ t.din = s.din.tail ∧ t.dinHeld = false ∧ t.rem = s.rem - 1)) ∧
  (∀ s t : State, exec .expPut s = .next t →
    t.rem = s.rem ∧ t.status = s.status ∧ s.SameEncoder t ∧ t.desIdx = s.desIdx ∧ t.desHi = s.desHi ∧
    t.expValue = s.expValue ∧ s.SameCmd t ∧ s.SameDin t ∧ t.rsp = s.rsp ∧ s.SameEnv t ∧
    (t.dout = s.dout ∨ t.dout = s.dout ++ [s.expValue]))

/-- What the response leaves unchanged: everything but ST and the response channel, STATUS included
(40_transaction_control.md section 3); for CTL.RESP and for both response tokens. Model's reading: the row of a token
is the transfer of that token (log 11). -/
def Obligations.ResponseFrame : Prop :=
  ∀ (i : Instr) (s t : State), i = .ctlResp ∨ i = .rspOk ∨ i = .rspMalformed → exec i s = .next t →
    t = { s with st := t.st, rsp := t.rsp } ∧
      (t.st = s.st ∧ t.rsp = s.rsp ∨ s.st = .resp ∧ t.st = .idle ∧ t.rsp = s.rsp ++ [s.status])

/-- What the row REC leaves unchanged: STATUS, the command channel, the responses, the environment; and where it
unpacks also the encoder's registers and `dout`, where it packs also REM, the open run's value and count, the
decoder's registers and `din`. And like every data step it does the same whatever STATUS is. Model's choice: the row is
the three beats together (log 10). -/
def Obligations.RecordFrame : Prop :=
  ∀ (c : Count) (v : Byte) (s t : State), exec (.record c v) s = .next t →
    t.status = s.status ∧ s.SameCmd t ∧ t.rsp = s.rsp ∧ s.SameEnv t ∧
    (s.st ≠ .encEmit → s.SameEncoder t ∧ t.dout = s.dout ∧
      (s.SameDin t ∨ s.din = pack ⟨c, v⟩ ++ t.din ∧ t.dinHeld = false)) ∧
    (s.st ≠ .decFetch → t.rem = s.rem ∧ t.runValue = s.runValue ∧ t.runCount = s.runCount ∧ s.SameDecoder t ∧
      s.SameDin t ∧ (t.dout = s.dout ∨ t.dout = s.dout ++ pack ⟨c, v⟩)) ∧
    ∀ w : Status, exec (.record c v) { s with status := w } = .next { t with status := w }

/-- No counter wraps (44_codec_laws.md section 3, the table marked "[derived: from the rules named]"): whatever the
state, a take counts REM down exactly, ENC.TAKE counts a run up exactly or starts it at 1, the count of a record is exactly
256 * DES_HI + b, and a put of a copy counts EXP_COUNT down exactly; and each of the three does so in every state in
which it is selected, its counter is not 0 and its token is there (41_encoder.md section 2, 43_decoder.md section 2). -/
def Obligations.CountersNeverWrap : Prop :=
  (∀ s t : State, exec .encTake s = .next t → t ≠ s →
    t.rem.toNat + 1 = s.rem.toNat ∧ (t.runCount.toNat = 1 ∨ t.runCount.toNat = s.runCount.toNat + 1)) ∧
  (∀ s t : State, exec .desTake s = .next t → t ≠ s →
    t.rem.toNat + 1 = s.rem.toNat ∧ ∃ b, s.TookDin t b ∧
      (s.desIdx = .low → t.expCount.toNat = 256 * s.desHi.toNat + b.toNat)) ∧
  (∀ s t : State, exec .expPut s = .next t → t ≠ s → t.expCount.toNat + 1 = s.expCount.toNat) ∧
  (∀ (s : State) (b : Byte) (d : List Byte), s.st = .encScan → 0 < s.rem.toNat → s.din = b :: d →
    ∃ t, exec .encTake s = .next t ∧ s.TookDin t b ∧ t.rem.toNat + 1 = s.rem.toNat ∧
      t.runCount.toNat = if s.runValid = true ∧ b = s.runValue ∧ s.runCount.toNat < 65535 then s.runCount.toNat + 1
        else 1) ∧
  (∀ (s : State) (b : Byte) (d : List Byte), s.st = .decFetch → 0 < s.rem.toNat → s.din = b :: d →
    ∃ t, exec .desTake s = .next t ∧ s.TookDin t b ∧ t.rem.toNat + 1 = s.rem.toNat) ∧
  (∀ s : State, s.st = .decExpand → 1 ≤ s.expCount.toNat →
    ∃ t, exec .expPut s = .next t ∧ s.PutDout t s.expValue ∧ t.expCount.toNat + 1 = s.expCount.toNat)

/-! ### The flags and the exception -/

/-- R23: STATUS is written only when a command is taken, 1 by a DECODE whose length is not a multiple of 3 and 0 by
every other command, which overwrites whatever it was; the response copies it; no data step reads it or writes it. -/
def Obligations.StatusIsWrittenByCommandsOnly : Prop :=
  (∀ (i : Instr) (s t : State) (c : CmdToken), exec i s = .next t → s.TookCmd t c →
    t.status = if c.op = .decode ∧ c.len.toNat % 3 ≠ 0 then .malformedInput else .ok) ∧
  (∀ (i : Instr) (s t : State), exec i s = .next t → t.cmd = s.cmd → t.status = s.status) ∧
  (∀ (i : Instr) (s t : State) (v : Status), exec i s = .next t → s.PutRsp t v → v = s.status) ∧
  (∀ (s : State) (c : CmdToken) (v : Status), s.st = .idle → s.cmd.head? = some c →
    exec c.instr { s with status := v } = exec c.instr s) ∧
  (∀ (i : Instr) (s t : State) (v : Status),
    i = .encTake ∨ i = .serPut ∨ i = .desTake ∨ i = .expPut →
    exec i s = .next t → exec i { s with status := v } = .next { t with status := v })

/-- The one exception: nothing but a DECODE command of a length that is not a multiple of 3 makes STATUS 1, and while
STATUS is 1 in RESP the only thing that can happen without a reset is its return, the response with status 1 to IDLE,
so it cannot nest (60_exceptions.md sections 1 and 4). -/
def Obligations.OnlyMalformedDecodeRaises : Prop :=
  (∀ (i : Instr) (s t : State), exec i s = .next t → s.status = .ok → t.status = .malformedInput →
    ∃ len : Len, i = .decode len.toNat ∧ len.toNat % 3 ≠ 0 ∧ s.st = .idle ∧ s.TookCmd t ⟨.decode, len⟩ ∧
      t.st = .resp ∧ t.rem = 0) ∧
  (∀ s t : State, s.st = .resp → s.status = .malformedInput → s.edge.rst = false → step s = .next t →
    t = s.tick ∨ (s.PutRsp t .malformedInput ∧ t.st = .idle ∧ t.status = .malformedInput))

/-! ### The transition table -/

/-- Every step without reset follows a row of the table of 40_transaction_control.md section 4 or moves nothing, and
every step with reset goes to IDLE; no other transition exists (the table is marked "[derived: from rules R81, R82,
R83, R97, R98, R110, R120, R121, R122]"). -/
def Obligations.EveryStepFollowsTheTransitionTable : Prop :=
  ∀ s t : State, step s = .next t →
    (s.edge.rst = true ∧ t.st = .idle) ∨ (s.edge.rst = false ∧ (t = s.tick ∨ TableRow s.tick t))

/-! ### Function level -/

/-- R90: `mruns(b)` is the one list of pairs of positive length with different neighbouring values whose expansion
is `b`. -/
def Obligations.MaximalRunsAreUnique : Prop :=
  ∀ (b : List Byte) (rs : List (Nat × Byte)),
    Codec.mruns b = rs ↔
      ((∀ r ∈ rs, 1 ≤ r.1) ∧
        (∀ k (h : k + 1 < rs.length), (rs[k]).2 ≠ (rs[k + 1]).2) ∧
        b = rs.flatMap fun r => List.replicate r.1 r.2)

/-- R91: the records of a maximal run: how many, their counts, their sum, and that only the last is not full. -/
def Obligations.SplitCoversTheRun : Prop :=
  ∀ (n : Nat) (v : Byte), 1 ≤ n →
    (Codec.split n v = List.replicate (n / 65535) ⟨65535, v⟩ ++
      if n % 65535 ≠ 0 then [⟨BitVec.ofNat 16 (n % 65535), v⟩] else []) ∧
    (Codec.split n v).length = (n + 65534) / 65535 ∧
    (∀ r ∈ Codec.split n v, 1 ≤ r.count.toNat ∧ r.count.toNat ≤ 65535 ∧ r.value = v) ∧
    ((Codec.split n v).map fun r => r.count.toNat).sum = n ∧
    (∀ r ∈ (Codec.split n v).dropLast, r.count.toNat = 65535)

/-- The left fold computes the record list (41_encoder.md section 1, the equation marked "[derived: from rules R90,
R91, R92]"). -/
def Obligations.FoldComputesTheRecords : Prop := ∀ b : List Byte, Codec.encFold b = Codec.encRuns b

/-- R131, with the document's wording and its precise form. -/
def Obligations.EncodedLengthIsThreePerRecord : Prop :=
  ∀ b : List Byte, (Codec.encode b).length % 3 = 0 ∧ (Codec.encode b).length = 3 * (Codec.encRuns b).length

/-- R144: expanding the records of the Encoded Stream, in order, reconstructs the Raw Stream, for every Raw Stream. -/
def Obligations.ExpandingTheRecordsGivesTheInput : Prop :=
  ∀ b : List Byte, Codec.expand (Codec.encRuns b) = b ∧
    ∃ rs, Codec.deserialize (Codec.encode b) = some rs ∧ Codec.expand rs = b

/-- R135: `decode` fails exactly on the lengths that are not multiples of 3; and what it gives otherwise. -/
def Obligations.DecodeFailsExactlyOnMalformedLength : Prop :=
  (∀ e : List Byte, e.length % 3 ≠ 0 → Codec.decode e = .error .malformedInput) ∧
  (∀ e : List Byte, e.length % 3 = 0 → ∃ rs, Codec.deserialize e = some rs ∧ Codec.decode e = .ok (Codec.expand rs))

/-- R134: the encoder's counts are in 1 to 65535; and in the hardware, in every state of the invariant, the two count
bytes of a record being put are never both 00. -/
def Obligations.EmittedCountsAreInRange : Prop :=
  (∀ (b : List Byte), ∀ r ∈ Codec.encRuns b, 1 ≤ r.count.toNat ∧ r.count.toNat ≤ 65535) ∧
  (∀ s : State, s.Inv → s.st = .encEmit → 1 ≤ s.serCount.toNat ∧ s.serCount.toNat ≤ 65535 ∧
    ¬ (highByte s.serCount = 0 ∧ lowByte s.serCount = 0))

/-- Canonical streams (44_codec_laws.md section 1, the sentences marked "[derived: from rules R90, R91, R92]" and
"[derived: from rules R91, R93, R132]"): equal neighbours only after a full record; the record lists `encode` produces
are exactly the canonical ones, each of one buffer; and `encode` undoes `decode` on canonical streams. -/
def Obligations.CanonicalStreamsAreTheEncoded : Prop :=
  (∀ (b : List Byte) (k : Nat) (h : k + 1 < (Codec.encRuns b).length),
    ((Codec.encRuns b)[k]).value = ((Codec.encRuns b)[k + 1]).value → ((Codec.encRuns b)[k]).count.toNat = 65535) ∧
  (∀ rs : List Record, Codec.canonicalRecords rs = true ↔ ∃ b, Codec.encRuns b = rs) ∧
  (∀ (rs : List Record) (b : List Byte), Codec.encRuns b = rs → b = Codec.expand rs) ∧
  (∀ e : List Byte, Codec.canonical e = true → ∃ b, Codec.decode e = .ok b ∧ Codec.encode b = e)

/-- `decode` of a concatenation at a record boundary is the concatenation of the decodes (43_decoder.md section 3, the
sentence marked "[derived: from rule R115]"); and `encode` of a concatenation is, where the cut does not fall inside a
maximal run. -/
def Obligations.ConcatenationAtBoundaries : Prop :=
  (∀ e1 e2 b1 b2 : List Byte, Codec.decode e1 = .ok b1 → Codec.decode e2 = .ok b2 →
    Codec.decode (e1 ++ e2) = .ok (b1 ++ b2)) ∧
  (∀ (b1 b2 : List Byte), b1.getLast? ≠ b2.head? → Codec.encode (b1 ++ b2) = Codec.encode b1 ++ Codec.encode b2)

/-- Size bounds (44_codec_laws.md section 4, marked "[derived: from rules R91, R115]", and 43_decoder.md section 1,
marked "[derived: from rule R115]"). -/
def Obligations.SizeBounds : Prop :=
  (∀ b : List Byte, (Codec.encode b).length ≤ 3 * b.length ∧
    3 * ((b.length + 65534) / 65535) ≤ (Codec.encode b).length ∧
    ((Codec.encode b).length = 3 * b.length ↔ ∀ k (h : k + 1 < b.length), b[k] ≠ b[k + 1])) ∧
  (∀ (n : Nat) (v : Byte), (Codec.encode (List.replicate n v)).length = 3 * ((n + 65534) / 65535)) ∧
  (∀ e b : List Byte, Codec.decode e = .ok b → b.length ≤ 65535 * (e.length / 3) ∧
    ∀ rs, Codec.deserialize e = some rs → b.length = (rs.map fun r => r.count.toNat).sum)

/-! ### The two levels meet -/

/-- The encoder invariant (41_encoder.md section 3, marked "[derived: from rules R93, R97, R98, R110]"): an ENCODE
command sets it up, every step of the transaction keeps it, and at the response it says that the output buffer is
`encode` of the bytes taken. -/
def Obligations.EncoderTracksTheFold : Prop :=
  (∀ (s t : State) (len : Len), 0 < len.toNat → exec (.encode len.toNat) s = .next t →
    s.TookCmd t ⟨.encode, len⟩ →
    t.st = .encScan ∧ t.EncodesSoFar s.dout []) ∧
  (∀ (base p : List Byte) (s t : State), s.Inv → s.st = .encScan ∨ s.st = .encEmit → s.EncodesSoFar base p →
    s.edge.rst = false → step s = .next t →
    ∃ taken, s.din = taken ++ t.din ∧ s.rem.toNat = taken.length + t.rem.toNat ∧ t.EncodesSoFar base (p ++ taken) ∧
      (t.st = .encScan ∨ t.st = .encEmit ∨ t.st = .resp)) ∧
  (∀ (base p : List Byte) (s : State), s.Inv → s.st = .resp → s.EncodesSoFar base p →
    s.dout = base ++ Codec.encode p)

/-- The decoder invariant (43_decoder.md section 3, marked "[derived: from rules R115, R120, R121, R122]"): a DECODE
command sets it up, every step of the transaction keeps it, and at the response it says that the output buffer is
`decode` of the bytes taken. -/
def Obligations.DecoderTracksTheExpansion : Prop :=
  (∀ (s t : State) (len : Len), 0 < len.toNat → len.toNat % 3 = 0 → exec (.decode len.toNat) s = .next t →
    s.TookCmd t ⟨.decode, len⟩ → t.st = .decFetch ∧ t.DecodesSoFar s.dout []) ∧
  (∀ (base p : List Byte) (s t : State), s.Inv → s.st = .decFetch ∨ s.st = .decExpand → s.DecodesSoFar base p →
    s.edge.rst = false → step s = .next t →
    ∃ taken, s.din = taken ++ t.din ∧ s.rem.toNat = taken.length + t.rem.toNat ∧ t.DecodesSoFar base (p ++ taken) ∧
      (t.st = .decFetch ∨ t.st = .decExpand ∨ t.st = .resp)) ∧
  (∀ (base p : List Byte) (s : State), s.Inv → s.st = .resp → s.DecodesSoFar base p →
    ∃ b, Codec.decode p = .ok b ∧ s.dout = base ++ b)

/-- An ENCODE transaction refines `encode` (44_codec_laws.md section 2, marked "[derived: from rules R81, R82, R83, R99,
R123]"), in exactly `2 + len + m` steps when no partner delays (marked "[derived: from rules R84, R136]"): from any
idle state, whatever its registers hold; for every buffer whose length `cmd_len` carries (70_reset_and_hazards.md
section 4). Model's choice: the prompt environment (log 4). -/
def Obligations.EncodeTransactionRefinesEncode : Prop :=
  ∀ (s : State) (len : Len) (x more : List Byte) (q : List CmdToken), s.st = .idle → s.Prompt →
    s.cmd = ⟨.encode, len⟩ :: q → len.toNat = x.length → s.din = x ++ more →
    (∃ t : State, runSteps (2 + x.length + (Codec.encode x).length) s = .next t ∧
      t.st = .idle ∧ t.rem = 0 ∧ t.cmd = q ∧ t.din = more ∧ t.dout = s.dout ++ Codec.encode x ∧
      t.rsp = s.rsp ++ [.ok]) ∧
    ∀ k, 0 < k → k < 2 + x.length + (Codec.encode x).length →
      ∃ u : State, runSteps k s = .next u ∧ u.st ≠ .idle ∧ u.rsp = s.rsp

/-- A DECODE transaction of a well-formed length refines `decode`, in exactly `2 + len + m` steps (44_codec_laws.md
section 2, marked as derived as for ENCODE); and one of a malformed length ends after two steps with status 1, no byte
taken and none put. Model's choice: the prompt environment (log 4). -/
def Obligations.DecodeTransactionRefinesDecode : Prop :=
  (∀ (s : State) (len : Len) (x y more : List Byte) (q : List CmdToken), s.st = .idle → s.Prompt →
    s.cmd = ⟨.decode, len⟩ :: q → len.toNat = x.length → s.din = x ++ more → Codec.decode x = .ok y →
    (∃ t : State, runSteps (2 + x.length + y.length) s = .next t ∧
      t.st = .idle ∧ t.rem = 0 ∧ t.cmd = q ∧ t.din = more ∧ t.dout = s.dout ++ y ∧ t.rsp = s.rsp ++ [.ok]) ∧
    ∀ k, 0 < k → k < 2 + x.length + y.length →
      ∃ u : State, runSteps k s = .next u ∧ u.st ≠ .idle ∧ u.rsp = s.rsp) ∧
  (∀ (s : State) (len : Len) (q : List CmdToken), s.st = .idle → s.Prompt → s.cmd = ⟨.decode, len⟩ :: q →
    len.toNat % 3 ≠ 0 →
    ∃ t : State, runSteps 2 s = .next t ∧ t.st = .idle ∧ t.rem = 0 ∧ t.cmd = q ∧
      t.din = s.din ∧ t.dout = s.dout ∧ t.rsp = s.rsp ++ [.malformedInput])

/-- The result of a transaction does not depend on when the environment offered or took each token (44_codec_laws.md
section 2, marked "[derived: from rules R81, R82, R83, R99, R123]"): under any finite delays and no reset, every
command ends in IDLE with the function level's result. Model's choice: delays are edges at which a partner is not
willing (log 4). -/
def Obligations.DelaysDoNotChangeTheResult : Prop :=
  ∀ (s : State) (c : CmdToken) (x more : List Byte) (q : List CmdToken), s.st = .idle → s.Dutiful →
    s.cmd = c :: q → x.length = c.len.toNat → s.din = (if c.takesInput then x else []) ++ more →
    ∃ (n : Nat) (t : State), n ≤ s.sched.length + 2 + c.len.toNat + (t.dout.length - s.dout.length) ∧
      runSteps n s = .next t ∧ t.st = .idle ∧ t.rem = 0 ∧
      t.cmd = q ∧ t.din = more ∧
      (match c.op with
        | .encode => t.dout = s.dout ++ Codec.encode x ∧ t.rsp = s.rsp ++ [.ok]
        | .decode =>
          match Codec.decode x with
          | .ok y => t.dout = s.dout ++ y ∧ t.rsp = s.rsp ++ [.ok]
          | .error .malformedInput => t.dout = s.dout ∧ t.rsp = s.rsp ++ [.malformedInput])

/-- `decode` undoes `encode` on every byte sequence (44_codec_laws.md section 1); and in hardware terms, from any idle
state and with prompt partners, ENCODE of `b` and then DECODE of its output, where `cmd_len` carries both lengths, puts
`encode(b)` and then `b`, with status OK twice, in the number of steps that section 2 of that file derives. Model's
choice: the prompt environment (log 4). -/
def Obligations.RoundTrip : Prop :=
  (∀ b : List Byte, Codec.decode (Codec.encode b) = .ok b) ∧
  (∀ (s : State) (l1 l2 : Len) (b more : List Byte) (q : List CmdToken), s.st = .idle → s.Prompt →
    s.cmd = ⟨.encode, l1⟩ :: ⟨.decode, l2⟩ :: q → l1.toNat = b.length → l2.toNat = (Codec.encode b).length →
    s.din = b ++ Codec.encode b ++ more →
    ∃ (n : Nat) (t : State), n = 4 + 2 * b.length + 2 * (Codec.encode b).length ∧
      runSteps n s = .next t ∧ t.st = .idle ∧ t.cmd = q ∧ t.din = more ∧
      t.dout = s.dout ++ Codec.encode b ++ b ∧ t.rsp = s.rsp ++ [.ok, .ok])

/-- The measures of 44_codec_laws.md section 2 (marked "[derived: from rules R84, R97, R98, R110, R120, R122]"): every
data step lowers its transaction's measure, by the amounts stated there, and the measures are 0 exactly in RESP. -/
def Obligations.MeasuresDecrease : Prop :=
  (∀ s t : State, s.Inv → s.edge.rst = false → s.handshake s.edge = true → step s = .next t →
    (s.st = .encEmit → t.encMeasure + 1 = s.encMeasure) ∧
    (s.st = .encScan → s.runValid = false → t.encMeasure + 1 = s.encMeasure) ∧
    (s.st = .encScan → s.runValid = true → t.st = .encEmit → t.runValid = true → t.encMeasure + 1 = s.encMeasure) ∧
    (s.st = .encScan → s.runValid = true → ¬ (t.st = .encEmit ∧ t.runValid = true) →
      t.encMeasure + 4 = s.encMeasure) ∧
    (s.st = .decFetch → t.rem.toNat + 1 = s.rem.toNat) ∧
    (s.st = .decExpand → t.rem = s.rem ∧ t.decMeasure + 1 = s.decMeasure)) ∧
  (∀ s : State, s.Inv → s.st = .encScan ∨ s.st = .encEmit ∨ s.st = .resp → (s.encMeasure = 0 ↔ s.st = .resp)) ∧
  (∀ s : State, s.Inv → s.st = .decFetch ∨ s.st = .decExpand ∨ s.st = .resp →
    (s.rem = 0 ∧ s.decMeasure = 0 ↔ s.st = .resp))

/-! ### What cannot matter -/

/-- Command latching (20_memory.md section 4): outside the step that takes a command, nothing depends on the commands on
offer: replacing them changes nothing but themselves. -/
def Obligations.CommandIsReadOnlyWhenTaken : Prop :=
  ∀ (s t : State) (cs : List CmdToken), s.st ≠ .idle → s.edge.rst = false → step s = .next t →
    t.cmd = s.cmd ∧ step { s with cmd := cs } = .next { t with cmd := cs }

/-- No look-ahead (20_memory.md section 4, the rule marked "[derived: from rules R97, R98, R110, R120, R122]", and
section 1 on the take): a step reads at most the byte it takes. Where it takes the byte at the head, replacing every
byte behind that one changes nothing but those bytes; where it takes none, replacing all of them does, the head and
their absence included. -/
def Obligations.NoLookAhead : Prop :=
  ∀ (s t : State) (b : Byte) (d : List Byte), s.edge.rst = false → s.din = b :: d → step s = .next t →
    (t.din = d ∧ ∀ d' : List Byte, step { s with din := b :: d' } = .next { t with din := d' }) ∨
      (t.din = s.din ∧ ∀ d' : List Byte, step { s with din := d' } = .next { t with din := d' })

/-- No state crosses a transaction (10_state.md section 5 and 44_codec_laws.md section 4, both marked as derived):
taking a command makes two idle states that differ in any registers agree on all that a step can still read, and steps keep
that agreement, so the tokens are the same. -/
def Obligations.EarlierTransactionsDoNotMatter : Prop :=
  (∀ s t : State, s.st = .idle → t.st = .idle → s.SameOutside t → s.edge.rst = false →
    s.handshake s.edge = true → ∃ s' t', step s = .next s' ∧ step t = .next t' ∧ s'.AgreeLive t') ∧
  (∀ s t : State, s.Inv → s.AgreeLive t → ∃ s' t', step s = .next s' ∧ step t = .next t' ∧ s'.AgreeLive t')
end

