-- ==== Sys2Proof/Laws/Codec.lean ====
section
/-! SUPPORT. How the functions of the function level act on lists put together from parts. -/

namespace Sys2Proof.Codec

theorem expand_append (a b : List Record) : expand (a ++ b) = expand a ++ expand b := by simp [expand]

theorem expand_singleton (r : Record) : expand [r] = List.replicate r.count.toNat r.value := by simp [expand]

theorem serialize_append (a b : List Record) : serialize (a ++ b) = serialize a ++ serialize b := by
  simp [serialize]

theorem serialize_singleton (r : Record) : serialize [r] = pack r := by simp [serialize]

theorem serialize_length (a : List Record) : (serialize a).length = 3 * a.length := by
  induction a with
  | nil => rfl
  | cons r a ih =>
    simp only [serialize, List.flatMap_cons, List.length_append, pack, List.length_cons, List.length_nil] at ih ⊢
    omega

/-- `snoc` touches only the last record (R93). -/
theorem snoc_append (rs : List Record) (r : Record) (x : Byte) :
    snoc (rs ++ [r]) x =
      rs ++ if r.value = x ∧ r.count.toNat < 65535 then [⟨r.count + 1, r.value⟩] else [r, ⟨1, x⟩] := by
  induction rs with
  | nil => simp [snoc, Config.maxCount]
  | cons a rs ih =>
    cases rs with
    | nil => simp [snoc, Config.maxCount]
    | cons b rs =>
      simp only [List.cons_append] at ih ⊢
      rw [snoc, ih]

theorem encFold_append_singleton (p : List Byte) (x : Byte) : encFold (p ++ [x]) = snoc (encFold p) x := by
  simp [encFold]

end Sys2Proof.Codec
end

