-- ==== Sys2Proof/Laws/State.lean ====
section
/-! SUPPORT. Every field after every named update of the state (Machine/Ops.lean, Machine/Clock.lean): true by rfl, so
that no later proof unfolds a record update. -/

namespace Sys2Proof.Machine

variable (s : State)

/-! `goto` -/

@[simp] theorem State.goto_st (p : Phase) : (s.goto p).st = p := rfl
@[simp] theorem State.goto_rem (p : Phase) : (s.goto p).rem = s.rem := rfl
@[simp] theorem State.goto_status (p : Phase) : (s.goto p).status = s.status := rfl
@[simp] theorem State.goto_runValid (p : Phase) : (s.goto p).runValid = s.runValid := rfl
@[simp] theorem State.goto_runValue (p : Phase) : (s.goto p).runValue = s.runValue := rfl
@[simp] theorem State.goto_runCount (p : Phase) : (s.goto p).runCount = s.runCount := rfl
@[simp] theorem State.goto_serCount (p : Phase) : (s.goto p).serCount = s.serCount := rfl
@[simp] theorem State.goto_serValue (p : Phase) : (s.goto p).serValue = s.serValue := rfl
@[simp] theorem State.goto_serIdx (p : Phase) : (s.goto p).serIdx = s.serIdx := rfl
@[simp] theorem State.goto_desIdx (p : Phase) : (s.goto p).desIdx = s.desIdx := rfl
@[simp] theorem State.goto_desHi (p : Phase) : (s.goto p).desHi = s.desHi := rfl
@[simp] theorem State.goto_expCount (p : Phase) : (s.goto p).expCount = s.expCount := rfl
@[simp] theorem State.goto_expValue (p : Phase) : (s.goto p).expValue = s.expValue := rfl
@[simp] theorem State.goto_cmd (p : Phase) : (s.goto p).cmd = s.cmd := rfl
@[simp] theorem State.goto_din (p : Phase) : (s.goto p).din = s.din := rfl
@[simp] theorem State.goto_dout (p : Phase) : (s.goto p).dout = s.dout := rfl
@[simp] theorem State.goto_rsp (p : Phase) : (s.goto p).rsp = s.rsp := rfl
@[simp] theorem State.goto_cmdHeld (p : Phase) : (s.goto p).cmdHeld = s.cmdHeld := rfl
@[simp] theorem State.goto_dinHeld (p : Phase) : (s.goto p).dinHeld = s.dinHeld := rfl
@[simp] theorem State.goto_sched (p : Phase) : (s.goto p).sched = s.sched := rfl
@[simp] theorem State.goto_rest (p : Phase) : (s.goto p).rest = s.rest := rfl

/-! `setRem` -/

@[simp] theorem State.setRem_st (n : Len) : (s.setRem n).st = s.st := rfl
@[simp] theorem State.setRem_rem (n : Len) : (s.setRem n).rem = n := rfl
@[simp] theorem State.setRem_status (n : Len) : (s.setRem n).status = s.status := rfl
@[simp] theorem State.setRem_runValid (n : Len) : (s.setRem n).runValid = s.runValid := rfl
@[simp] theorem State.setRem_runValue (n : Len) : (s.setRem n).runValue = s.runValue := rfl
@[simp] theorem State.setRem_runCount (n : Len) : (s.setRem n).runCount = s.runCount := rfl
@[simp] theorem State.setRem_serCount (n : Len) : (s.setRem n).serCount = s.serCount := rfl
@[simp] theorem State.setRem_serValue (n : Len) : (s.setRem n).serValue = s.serValue := rfl
@[simp] theorem State.setRem_serIdx (n : Len) : (s.setRem n).serIdx = s.serIdx := rfl
@[simp] theorem State.setRem_desIdx (n : Len) : (s.setRem n).desIdx = s.desIdx := rfl
@[simp] theorem State.setRem_desHi (n : Len) : (s.setRem n).desHi = s.desHi := rfl
@[simp] theorem State.setRem_expCount (n : Len) : (s.setRem n).expCount = s.expCount := rfl
@[simp] theorem State.setRem_expValue (n : Len) : (s.setRem n).expValue = s.expValue := rfl
@[simp] theorem State.setRem_cmd (n : Len) : (s.setRem n).cmd = s.cmd := rfl
@[simp] theorem State.setRem_din (n : Len) : (s.setRem n).din = s.din := rfl
@[simp] theorem State.setRem_dout (n : Len) : (s.setRem n).dout = s.dout := rfl
@[simp] theorem State.setRem_rsp (n : Len) : (s.setRem n).rsp = s.rsp := rfl
@[simp] theorem State.setRem_cmdHeld (n : Len) : (s.setRem n).cmdHeld = s.cmdHeld := rfl
@[simp] theorem State.setRem_dinHeld (n : Len) : (s.setRem n).dinHeld = s.dinHeld := rfl
@[simp] theorem State.setRem_sched (n : Len) : (s.setRem n).sched = s.sched := rfl
@[simp] theorem State.setRem_rest (n : Len) : (s.setRem n).rest = s.rest := rfl

/-! `setStatus` -/

@[simp] theorem State.setStatus_st (v : Status) : (s.setStatus v).st = s.st := rfl
@[simp] theorem State.setStatus_rem (v : Status) : (s.setStatus v).rem = s.rem := rfl
@[simp] theorem State.setStatus_status (v : Status) : (s.setStatus v).status = v := rfl
@[simp] theorem State.setStatus_runValid (v : Status) : (s.setStatus v).runValid = s.runValid := rfl
@[simp] theorem State.setStatus_runValue (v : Status) : (s.setStatus v).runValue = s.runValue := rfl
@[simp] theorem State.setStatus_runCount (v : Status) : (s.setStatus v).runCount = s.runCount := rfl
@[simp] theorem State.setStatus_serCount (v : Status) : (s.setStatus v).serCount = s.serCount := rfl
@[simp] theorem State.setStatus_serValue (v : Status) : (s.setStatus v).serValue = s.serValue := rfl
@[simp] theorem State.setStatus_serIdx (v : Status) : (s.setStatus v).serIdx = s.serIdx := rfl
@[simp] theorem State.setStatus_desIdx (v : Status) : (s.setStatus v).desIdx = s.desIdx := rfl
@[simp] theorem State.setStatus_desHi (v : Status) : (s.setStatus v).desHi = s.desHi := rfl
@[simp] theorem State.setStatus_expCount (v : Status) : (s.setStatus v).expCount = s.expCount := rfl
@[simp] theorem State.setStatus_expValue (v : Status) : (s.setStatus v).expValue = s.expValue := rfl
@[simp] theorem State.setStatus_cmd (v : Status) : (s.setStatus v).cmd = s.cmd := rfl
@[simp] theorem State.setStatus_din (v : Status) : (s.setStatus v).din = s.din := rfl
@[simp] theorem State.setStatus_dout (v : Status) : (s.setStatus v).dout = s.dout := rfl
@[simp] theorem State.setStatus_rsp (v : Status) : (s.setStatus v).rsp = s.rsp := rfl
@[simp] theorem State.setStatus_cmdHeld (v : Status) : (s.setStatus v).cmdHeld = s.cmdHeld := rfl
@[simp] theorem State.setStatus_dinHeld (v : Status) : (s.setStatus v).dinHeld = s.dinHeld := rfl
@[simp] theorem State.setStatus_sched (v : Status) : (s.setStatus v).sched = s.sched := rfl
@[simp] theorem State.setStatus_rest (v : Status) : (s.setStatus v).rest = s.rest := rfl

/-! `setRunValid` -/

@[simp] theorem State.setRunValid_st (v : Bool) : (s.setRunValid v).st = s.st := rfl
@[simp] theorem State.setRunValid_rem (v : Bool) : (s.setRunValid v).rem = s.rem := rfl
@[simp] theorem State.setRunValid_status (v : Bool) : (s.setRunValid v).status = s.status := rfl
@[simp] theorem State.setRunValid_runValid (v : Bool) : (s.setRunValid v).runValid = v := rfl
@[simp] theorem State.setRunValid_runValue (v : Bool) : (s.setRunValid v).runValue = s.runValue := rfl
@[simp] theorem State.setRunValid_runCount (v : Bool) : (s.setRunValid v).runCount = s.runCount := rfl
@[simp] theorem State.setRunValid_serCount (v : Bool) : (s.setRunValid v).serCount = s.serCount := rfl
@[simp] theorem State.setRunValid_serValue (v : Bool) : (s.setRunValid v).serValue = s.serValue := rfl
@[simp] theorem State.setRunValid_serIdx (v : Bool) : (s.setRunValid v).serIdx = s.serIdx := rfl
@[simp] theorem State.setRunValid_desIdx (v : Bool) : (s.setRunValid v).desIdx = s.desIdx := rfl
@[simp] theorem State.setRunValid_desHi (v : Bool) : (s.setRunValid v).desHi = s.desHi := rfl
@[simp] theorem State.setRunValid_expCount (v : Bool) : (s.setRunValid v).expCount = s.expCount := rfl
@[simp] theorem State.setRunValid_expValue (v : Bool) : (s.setRunValid v).expValue = s.expValue := rfl
@[simp] theorem State.setRunValid_cmd (v : Bool) : (s.setRunValid v).cmd = s.cmd := rfl
@[simp] theorem State.setRunValid_din (v : Bool) : (s.setRunValid v).din = s.din := rfl
@[simp] theorem State.setRunValid_dout (v : Bool) : (s.setRunValid v).dout = s.dout := rfl
@[simp] theorem State.setRunValid_rsp (v : Bool) : (s.setRunValid v).rsp = s.rsp := rfl
@[simp] theorem State.setRunValid_cmdHeld (v : Bool) : (s.setRunValid v).cmdHeld = s.cmdHeld := rfl
@[simp] theorem State.setRunValid_dinHeld (v : Bool) : (s.setRunValid v).dinHeld = s.dinHeld := rfl
@[simp] theorem State.setRunValid_sched (v : Bool) : (s.setRunValid v).sched = s.sched := rfl
@[simp] theorem State.setRunValid_rest (v : Bool) : (s.setRunValid v).rest = s.rest := rfl

/-! `newRun` -/

@[simp] theorem State.newRun_st (b : Byte) : (s.newRun b).st = s.st := rfl
@[simp] theorem State.newRun_rem (b : Byte) : (s.newRun b).rem = s.rem := rfl
@[simp] theorem State.newRun_status (b : Byte) : (s.newRun b).status = s.status := rfl
@[simp] theorem State.newRun_runValid (b : Byte) : (s.newRun b).runValid = s.runValid := rfl
@[simp] theorem State.newRun_runValue (b : Byte) : (s.newRun b).runValue = b := rfl
@[simp] theorem State.newRun_runCount (b : Byte) : (s.newRun b).runCount = 1 := rfl
@[simp] theorem State.newRun_serCount (b : Byte) : (s.newRun b).serCount = s.serCount := rfl
@[simp] theorem State.newRun_serValue (b : Byte) : (s.newRun b).serValue = s.serValue := rfl
@[simp] theorem State.newRun_serIdx (b : Byte) : (s.newRun b).serIdx = s.serIdx := rfl
@[simp] theorem State.newRun_desIdx (b : Byte) : (s.newRun b).desIdx = s.desIdx := rfl
@[simp] theorem State.newRun_desHi (b : Byte) : (s.newRun b).desHi = s.desHi := rfl
@[simp] theorem State.newRun_expCount (b : Byte) : (s.newRun b).expCount = s.expCount := rfl
@[simp] theorem State.newRun_expValue (b : Byte) : (s.newRun b).expValue = s.expValue := rfl
@[simp] theorem State.newRun_cmd (b : Byte) : (s.newRun b).cmd = s.cmd := rfl
@[simp] theorem State.newRun_din (b : Byte) : (s.newRun b).din = s.din := rfl
@[simp] theorem State.newRun_dout (b : Byte) : (s.newRun b).dout = s.dout := rfl
@[simp] theorem State.newRun_rsp (b : Byte) : (s.newRun b).rsp = s.rsp := rfl
@[simp] theorem State.newRun_cmdHeld (b : Byte) : (s.newRun b).cmdHeld = s.cmdHeld := rfl
@[simp] theorem State.newRun_dinHeld (b : Byte) : (s.newRun b).dinHeld = s.dinHeld := rfl
@[simp] theorem State.newRun_sched (b : Byte) : (s.newRun b).sched = s.sched := rfl
@[simp] theorem State.newRun_rest (b : Byte) : (s.newRun b).rest = s.rest := rfl

/-! `extendRun` -/

@[simp] theorem State.extendRun_st : s.extendRun.st = s.st := rfl
@[simp] theorem State.extendRun_rem : s.extendRun.rem = s.rem := rfl
@[simp] theorem State.extendRun_status : s.extendRun.status = s.status := rfl
@[simp] theorem State.extendRun_runValid : s.extendRun.runValid = s.runValid := rfl
@[simp] theorem State.extendRun_runValue : s.extendRun.runValue = s.runValue := rfl
@[simp] theorem State.extendRun_runCount : s.extendRun.runCount = s.runCount + 1 := rfl
@[simp] theorem State.extendRun_serCount : s.extendRun.serCount = s.serCount := rfl
@[simp] theorem State.extendRun_serValue : s.extendRun.serValue = s.serValue := rfl
@[simp] theorem State.extendRun_serIdx : s.extendRun.serIdx = s.serIdx := rfl
@[simp] theorem State.extendRun_desIdx : s.extendRun.desIdx = s.desIdx := rfl
@[simp] theorem State.extendRun_desHi : s.extendRun.desHi = s.desHi := rfl
@[simp] theorem State.extendRun_expCount : s.extendRun.expCount = s.expCount := rfl
@[simp] theorem State.extendRun_expValue : s.extendRun.expValue = s.expValue := rfl
@[simp] theorem State.extendRun_cmd : s.extendRun.cmd = s.cmd := rfl
@[simp] theorem State.extendRun_din : s.extendRun.din = s.din := rfl
@[simp] theorem State.extendRun_dout : s.extendRun.dout = s.dout := rfl
@[simp] theorem State.extendRun_rsp : s.extendRun.rsp = s.rsp := rfl
@[simp] theorem State.extendRun_cmdHeld : s.extendRun.cmdHeld = s.cmdHeld := rfl
@[simp] theorem State.extendRun_dinHeld : s.extendRun.dinHeld = s.dinHeld := rfl
@[simp] theorem State.extendRun_sched : s.extendRun.sched = s.sched := rfl
@[simp] theorem State.extendRun_rest : s.extendRun.rest = s.rest := rfl

/-! `setSerIdx` -/

@[simp] theorem State.setSerIdx_st (k : RecIdx) : (s.setSerIdx k).st = s.st := rfl
@[simp] theorem State.setSerIdx_rem (k : RecIdx) : (s.setSerIdx k).rem = s.rem := rfl
@[simp] theorem State.setSerIdx_status (k : RecIdx) : (s.setSerIdx k).status = s.status := rfl
@[simp] theorem State.setSerIdx_runValid (k : RecIdx) : (s.setSerIdx k).runValid = s.runValid := rfl
@[simp] theorem State.setSerIdx_runValue (k : RecIdx) : (s.setSerIdx k).runValue = s.runValue := rfl
@[simp] theorem State.setSerIdx_runCount (k : RecIdx) : (s.setSerIdx k).runCount = s.runCount := rfl
@[simp] theorem State.setSerIdx_serCount (k : RecIdx) : (s.setSerIdx k).serCount = s.serCount := rfl
@[simp] theorem State.setSerIdx_serValue (k : RecIdx) : (s.setSerIdx k).serValue = s.serValue := rfl
@[simp] theorem State.setSerIdx_serIdx (k : RecIdx) : (s.setSerIdx k).serIdx = k := rfl
@[simp] theorem State.setSerIdx_desIdx (k : RecIdx) : (s.setSerIdx k).desIdx = s.desIdx := rfl
@[simp] theorem State.setSerIdx_desHi (k : RecIdx) : (s.setSerIdx k).desHi = s.desHi := rfl
@[simp] theorem State.setSerIdx_expCount (k : RecIdx) : (s.setSerIdx k).expCount = s.expCount := rfl
@[simp] theorem State.setSerIdx_expValue (k : RecIdx) : (s.setSerIdx k).expValue = s.expValue := rfl
@[simp] theorem State.setSerIdx_cmd (k : RecIdx) : (s.setSerIdx k).cmd = s.cmd := rfl
@[simp] theorem State.setSerIdx_din (k : RecIdx) : (s.setSerIdx k).din = s.din := rfl
@[simp] theorem State.setSerIdx_dout (k : RecIdx) : (s.setSerIdx k).dout = s.dout := rfl
@[simp] theorem State.setSerIdx_rsp (k : RecIdx) : (s.setSerIdx k).rsp = s.rsp := rfl
@[simp] theorem State.setSerIdx_cmdHeld (k : RecIdx) : (s.setSerIdx k).cmdHeld = s.cmdHeld := rfl
@[simp] theorem State.setSerIdx_dinHeld (k : RecIdx) : (s.setSerIdx k).dinHeld = s.dinHeld := rfl
@[simp] theorem State.setSerIdx_sched (k : RecIdx) : (s.setSerIdx k).sched = s.sched := rfl
@[simp] theorem State.setSerIdx_rest (k : RecIdx) : (s.setSerIdx k).rest = s.rest := rfl

/-! `latchRun` -/

@[simp] theorem State.latchRun_st : s.latchRun.st = s.st := rfl
@[simp] theorem State.latchRun_rem : s.latchRun.rem = s.rem := rfl
@[simp] theorem State.latchRun_status : s.latchRun.status = s.status := rfl
@[simp] theorem State.latchRun_runValid : s.latchRun.runValid = s.runValid := rfl
@[simp] theorem State.latchRun_runValue : s.latchRun.runValue = s.runValue := rfl
@[simp] theorem State.latchRun_runCount : s.latchRun.runCount = s.runCount := rfl
@[simp] theorem State.latchRun_serCount : s.latchRun.serCount = s.runCount := rfl
@[simp] theorem State.latchRun_serValue : s.latchRun.serValue = s.runValue := rfl
@[simp] theorem State.latchRun_serIdx : s.latchRun.serIdx = .high := rfl
@[simp] theorem State.latchRun_desIdx : s.latchRun.desIdx = s.desIdx := rfl
@[simp] theorem State.latchRun_desHi : s.latchRun.desHi = s.desHi := rfl
@[simp] theorem State.latchRun_expCount : s.latchRun.expCount = s.expCount := rfl
@[simp] theorem State.latchRun_expValue : s.latchRun.expValue = s.expValue := rfl
@[simp] theorem State.latchRun_cmd : s.latchRun.cmd = s.cmd := rfl
@[simp] theorem State.latchRun_din : s.latchRun.din = s.din := rfl
@[simp] theorem State.latchRun_dout : s.latchRun.dout = s.dout := rfl
@[simp] theorem State.latchRun_rsp : s.latchRun.rsp = s.rsp := rfl
@[simp] theorem State.latchRun_cmdHeld : s.latchRun.cmdHeld = s.cmdHeld := rfl
@[simp] theorem State.latchRun_dinHeld : s.latchRun.dinHeld = s.dinHeld := rfl
@[simp] theorem State.latchRun_sched : s.latchRun.sched = s.sched := rfl
@[simp] theorem State.latchRun_rest : s.latchRun.rest = s.rest := rfl

/-! `setDesIdx` -/

@[simp] theorem State.setDesIdx_st (k : RecIdx) : (s.setDesIdx k).st = s.st := rfl
@[simp] theorem State.setDesIdx_rem (k : RecIdx) : (s.setDesIdx k).rem = s.rem := rfl
@[simp] theorem State.setDesIdx_status (k : RecIdx) : (s.setDesIdx k).status = s.status := rfl
@[simp] theorem State.setDesIdx_runValid (k : RecIdx) : (s.setDesIdx k).runValid = s.runValid := rfl
@[simp] theorem State.setDesIdx_runValue (k : RecIdx) : (s.setDesIdx k).runValue = s.runValue := rfl
@[simp] theorem State.setDesIdx_runCount (k : RecIdx) : (s.setDesIdx k).runCount = s.runCount := rfl
@[simp] theorem State.setDesIdx_serCount (k : RecIdx) : (s.setDesIdx k).serCount = s.serCount := rfl
@[simp] theorem State.setDesIdx_serValue (k : RecIdx) : (s.setDesIdx k).serValue = s.serValue := rfl
@[simp] theorem State.setDesIdx_serIdx (k : RecIdx) : (s.setDesIdx k).serIdx = s.serIdx := rfl
@[simp] theorem State.setDesIdx_desIdx (k : RecIdx) : (s.setDesIdx k).desIdx = k := rfl
@[simp] theorem State.setDesIdx_desHi (k : RecIdx) : (s.setDesIdx k).desHi = s.desHi := rfl
@[simp] theorem State.setDesIdx_expCount (k : RecIdx) : (s.setDesIdx k).expCount = s.expCount := rfl
@[simp] theorem State.setDesIdx_expValue (k : RecIdx) : (s.setDesIdx k).expValue = s.expValue := rfl
@[simp] theorem State.setDesIdx_cmd (k : RecIdx) : (s.setDesIdx k).cmd = s.cmd := rfl
@[simp] theorem State.setDesIdx_din (k : RecIdx) : (s.setDesIdx k).din = s.din := rfl
@[simp] theorem State.setDesIdx_dout (k : RecIdx) : (s.setDesIdx k).dout = s.dout := rfl
@[simp] theorem State.setDesIdx_rsp (k : RecIdx) : (s.setDesIdx k).rsp = s.rsp := rfl
@[simp] theorem State.setDesIdx_cmdHeld (k : RecIdx) : (s.setDesIdx k).cmdHeld = s.cmdHeld := rfl
@[simp] theorem State.setDesIdx_dinHeld (k : RecIdx) : (s.setDesIdx k).dinHeld = s.dinHeld := rfl
@[simp] theorem State.setDesIdx_sched (k : RecIdx) : (s.setDesIdx k).sched = s.sched := rfl
@[simp] theorem State.setDesIdx_rest (k : RecIdx) : (s.setDesIdx k).rest = s.rest := rfl

/-! `setDesHi` -/

@[simp] theorem State.setDesHi_st (b : Byte) : (s.setDesHi b).st = s.st := rfl
@[simp] theorem State.setDesHi_rem (b : Byte) : (s.setDesHi b).rem = s.rem := rfl
@[simp] theorem State.setDesHi_status (b : Byte) : (s.setDesHi b).status = s.status := rfl
@[simp] theorem State.setDesHi_runValid (b : Byte) : (s.setDesHi b).runValid = s.runValid := rfl
@[simp] theorem State.setDesHi_runValue (b : Byte) : (s.setDesHi b).runValue = s.runValue := rfl
@[simp] theorem State.setDesHi_runCount (b : Byte) : (s.setDesHi b).runCount = s.runCount := rfl
@[simp] theorem State.setDesHi_serCount (b : Byte) : (s.setDesHi b).serCount = s.serCount := rfl
@[simp] theorem State.setDesHi_serValue (b : Byte) : (s.setDesHi b).serValue = s.serValue := rfl
@[simp] theorem State.setDesHi_serIdx (b : Byte) : (s.setDesHi b).serIdx = s.serIdx := rfl
@[simp] theorem State.setDesHi_desIdx (b : Byte) : (s.setDesHi b).desIdx = s.desIdx := rfl
@[simp] theorem State.setDesHi_desHi (b : Byte) : (s.setDesHi b).desHi = b := rfl
@[simp] theorem State.setDesHi_expCount (b : Byte) : (s.setDesHi b).expCount = s.expCount := rfl
@[simp] theorem State.setDesHi_expValue (b : Byte) : (s.setDesHi b).expValue = s.expValue := rfl
@[simp] theorem State.setDesHi_cmd (b : Byte) : (s.setDesHi b).cmd = s.cmd := rfl
@[simp] theorem State.setDesHi_din (b : Byte) : (s.setDesHi b).din = s.din := rfl
@[simp] theorem State.setDesHi_dout (b : Byte) : (s.setDesHi b).dout = s.dout := rfl
@[simp] theorem State.setDesHi_rsp (b : Byte) : (s.setDesHi b).rsp = s.rsp := rfl
@[simp] theorem State.setDesHi_cmdHeld (b : Byte) : (s.setDesHi b).cmdHeld = s.cmdHeld := rfl
@[simp] theorem State.setDesHi_dinHeld (b : Byte) : (s.setDesHi b).dinHeld = s.dinHeld := rfl
@[simp] theorem State.setDesHi_sched (b : Byte) : (s.setDesHi b).sched = s.sched := rfl
@[simp] theorem State.setDesHi_rest (b : Byte) : (s.setDesHi b).rest = s.rest := rfl

/-! `setExpCount` -/

@[simp] theorem State.setExpCount_st (c : Count) : (s.setExpCount c).st = s.st := rfl
@[simp] theorem State.setExpCount_rem (c : Count) : (s.setExpCount c).rem = s.rem := rfl
@[simp] theorem State.setExpCount_status (c : Count) : (s.setExpCount c).status = s.status := rfl
@[simp] theorem State.setExpCount_runValid (c : Count) : (s.setExpCount c).runValid = s.runValid := rfl
@[simp] theorem State.setExpCount_runValue (c : Count) : (s.setExpCount c).runValue = s.runValue := rfl
@[simp] theorem State.setExpCount_runCount (c : Count) : (s.setExpCount c).runCount = s.runCount := rfl
@[simp] theorem State.setExpCount_serCount (c : Count) : (s.setExpCount c).serCount = s.serCount := rfl
@[simp] theorem State.setExpCount_serValue (c : Count) : (s.setExpCount c).serValue = s.serValue := rfl
@[simp] theorem State.setExpCount_serIdx (c : Count) : (s.setExpCount c).serIdx = s.serIdx := rfl
@[simp] theorem State.setExpCount_desIdx (c : Count) : (s.setExpCount c).desIdx = s.desIdx := rfl
@[simp] theorem State.setExpCount_desHi (c : Count) : (s.setExpCount c).desHi = s.desHi := rfl
@[simp] theorem State.setExpCount_expCount (c : Count) : (s.setExpCount c).expCount = c := rfl
@[simp] theorem State.setExpCount_expValue (c : Count) : (s.setExpCount c).expValue = s.expValue := rfl
@[simp] theorem State.setExpCount_cmd (c : Count) : (s.setExpCount c).cmd = s.cmd := rfl
@[simp] theorem State.setExpCount_din (c : Count) : (s.setExpCount c).din = s.din := rfl
@[simp] theorem State.setExpCount_dout (c : Count) : (s.setExpCount c).dout = s.dout := rfl
@[simp] theorem State.setExpCount_rsp (c : Count) : (s.setExpCount c).rsp = s.rsp := rfl
@[simp] theorem State.setExpCount_cmdHeld (c : Count) : (s.setExpCount c).cmdHeld = s.cmdHeld := rfl
@[simp] theorem State.setExpCount_dinHeld (c : Count) : (s.setExpCount c).dinHeld = s.dinHeld := rfl
@[simp] theorem State.setExpCount_sched (c : Count) : (s.setExpCount c).sched = s.sched := rfl
@[simp] theorem State.setExpCount_rest (c : Count) : (s.setExpCount c).rest = s.rest := rfl

/-! `setExpValue` -/

@[simp] theorem State.setExpValue_st (b : Byte) : (s.setExpValue b).st = s.st := rfl
@[simp] theorem State.setExpValue_rem (b : Byte) : (s.setExpValue b).rem = s.rem := rfl
@[simp] theorem State.setExpValue_status (b : Byte) : (s.setExpValue b).status = s.status := rfl
@[simp] theorem State.setExpValue_runValid (b : Byte) : (s.setExpValue b).runValid = s.runValid := rfl
@[simp] theorem State.setExpValue_runValue (b : Byte) : (s.setExpValue b).runValue = s.runValue := rfl
@[simp] theorem State.setExpValue_runCount (b : Byte) : (s.setExpValue b).runCount = s.runCount := rfl
@[simp] theorem State.setExpValue_serCount (b : Byte) : (s.setExpValue b).serCount = s.serCount := rfl
@[simp] theorem State.setExpValue_serValue (b : Byte) : (s.setExpValue b).serValue = s.serValue := rfl
@[simp] theorem State.setExpValue_serIdx (b : Byte) : (s.setExpValue b).serIdx = s.serIdx := rfl
@[simp] theorem State.setExpValue_desIdx (b : Byte) : (s.setExpValue b).desIdx = s.desIdx := rfl
@[simp] theorem State.setExpValue_desHi (b : Byte) : (s.setExpValue b).desHi = s.desHi := rfl
@[simp] theorem State.setExpValue_expCount (b : Byte) : (s.setExpValue b).expCount = s.expCount := rfl
@[simp] theorem State.setExpValue_expValue (b : Byte) : (s.setExpValue b).expValue = b := rfl
@[simp] theorem State.setExpValue_cmd (b : Byte) : (s.setExpValue b).cmd = s.cmd := rfl
@[simp] theorem State.setExpValue_din (b : Byte) : (s.setExpValue b).din = s.din := rfl
@[simp] theorem State.setExpValue_dout (b : Byte) : (s.setExpValue b).dout = s.dout := rfl
@[simp] theorem State.setExpValue_rsp (b : Byte) : (s.setExpValue b).rsp = s.rsp := rfl
@[simp] theorem State.setExpValue_cmdHeld (b : Byte) : (s.setExpValue b).cmdHeld = s.cmdHeld := rfl
@[simp] theorem State.setExpValue_dinHeld (b : Byte) : (s.setExpValue b).dinHeld = s.dinHeld := rfl
@[simp] theorem State.setExpValue_sched (b : Byte) : (s.setExpValue b).sched = s.sched := rfl
@[simp] theorem State.setExpValue_rest (b : Byte) : (s.setExpValue b).rest = s.rest := rfl

/-! `clearIndices` -/

@[simp] theorem State.clearIndices_st : s.clearIndices.st = s.st := rfl
@[simp] theorem State.clearIndices_rem : s.clearIndices.rem = s.rem := rfl
@[simp] theorem State.clearIndices_status : s.clearIndices.status = s.status := rfl
@[simp] theorem State.clearIndices_runValid : s.clearIndices.runValid = false := rfl
@[simp] theorem State.clearIndices_runValue : s.clearIndices.runValue = s.runValue := rfl
@[simp] theorem State.clearIndices_runCount : s.clearIndices.runCount = s.runCount := rfl
@[simp] theorem State.clearIndices_serCount : s.clearIndices.serCount = s.serCount := rfl
@[simp] theorem State.clearIndices_serValue : s.clearIndices.serValue = s.serValue := rfl
@[simp] theorem State.clearIndices_serIdx : s.clearIndices.serIdx = .high := rfl
@[simp] theorem State.clearIndices_desIdx : s.clearIndices.desIdx = .high := rfl
@[simp] theorem State.clearIndices_desHi : s.clearIndices.desHi = s.desHi := rfl
@[simp] theorem State.clearIndices_expCount : s.clearIndices.expCount = s.expCount := rfl
@[simp] theorem State.clearIndices_expValue : s.clearIndices.expValue = s.expValue := rfl
@[simp] theorem State.clearIndices_cmd : s.clearIndices.cmd = s.cmd := rfl
@[simp] theorem State.clearIndices_din : s.clearIndices.din = s.din := rfl
@[simp] theorem State.clearIndices_dout : s.clearIndices.dout = s.dout := rfl
@[simp] theorem State.clearIndices_rsp : s.clearIndices.rsp = s.rsp := rfl
@[simp] theorem State.clearIndices_cmdHeld : s.clearIndices.cmdHeld = s.cmdHeld := rfl
@[simp] theorem State.clearIndices_dinHeld : s.clearIndices.dinHeld = s.dinHeld := rfl
@[simp] theorem State.clearIndices_sched : s.clearIndices.sched = s.sched := rfl
@[simp] theorem State.clearIndices_rest : s.clearIndices.rest = s.rest := rfl

/-! `resetRegs` -/

@[simp] theorem State.resetRegs_st : s.resetRegs.st = .idle := rfl
@[simp] theorem State.resetRegs_rem : s.resetRegs.rem = 0 := rfl
@[simp] theorem State.resetRegs_status : s.resetRegs.status = .ok := rfl
@[simp] theorem State.resetRegs_runValid : s.resetRegs.runValid = false := rfl
@[simp] theorem State.resetRegs_runValue : s.resetRegs.runValue = 0 := rfl
@[simp] theorem State.resetRegs_runCount : s.resetRegs.runCount = 0 := rfl
@[simp] theorem State.resetRegs_serCount : s.resetRegs.serCount = 0 := rfl
@[simp] theorem State.resetRegs_serValue : s.resetRegs.serValue = 0 := rfl
@[simp] theorem State.resetRegs_serIdx : s.resetRegs.serIdx = .high := rfl
@[simp] theorem State.resetRegs_desIdx : s.resetRegs.desIdx = .high := rfl
@[simp] theorem State.resetRegs_desHi : s.resetRegs.desHi = 0 := rfl
@[simp] theorem State.resetRegs_expCount : s.resetRegs.expCount = 0 := rfl
@[simp] theorem State.resetRegs_expValue : s.resetRegs.expValue = 0 := rfl
@[simp] theorem State.resetRegs_cmd : s.resetRegs.cmd = s.cmd := rfl
@[simp] theorem State.resetRegs_din : s.resetRegs.din = s.din := rfl
@[simp] theorem State.resetRegs_dout : s.resetRegs.dout = s.dout := rfl
@[simp] theorem State.resetRegs_rsp : s.resetRegs.rsp = s.rsp := rfl
@[simp] theorem State.resetRegs_cmdHeld : s.resetRegs.cmdHeld = s.cmdHeld := rfl
@[simp] theorem State.resetRegs_dinHeld : s.resetRegs.dinHeld = s.dinHeld := rfl
@[simp] theorem State.resetRegs_sched : s.resetRegs.sched = s.sched := rfl
@[simp] theorem State.resetRegs_rest : s.resetRegs.rest = s.rest := rfl

/-! `popCmd` -/

@[simp] theorem State.popCmd_st : s.popCmd.st = s.st := rfl
@[simp] theorem State.popCmd_rem : s.popCmd.rem = s.rem := rfl
@[simp] theorem State.popCmd_status : s.popCmd.status = s.status := rfl
@[simp] theorem State.popCmd_runValid : s.popCmd.runValid = s.runValid := rfl
@[simp] theorem State.popCmd_runValue : s.popCmd.runValue = s.runValue := rfl
@[simp] theorem State.popCmd_runCount : s.popCmd.runCount = s.runCount := rfl
@[simp] theorem State.popCmd_serCount : s.popCmd.serCount = s.serCount := rfl
@[simp] theorem State.popCmd_serValue : s.popCmd.serValue = s.serValue := rfl
@[simp] theorem State.popCmd_serIdx : s.popCmd.serIdx = s.serIdx := rfl
@[simp] theorem State.popCmd_desIdx : s.popCmd.desIdx = s.desIdx := rfl
@[simp] theorem State.popCmd_desHi : s.popCmd.desHi = s.desHi := rfl
@[simp] theorem State.popCmd_expCount : s.popCmd.expCount = s.expCount := rfl
@[simp] theorem State.popCmd_expValue : s.popCmd.expValue = s.expValue := rfl
@[simp] theorem State.popCmd_cmd : s.popCmd.cmd = s.cmd.tail := rfl
@[simp] theorem State.popCmd_din : s.popCmd.din = s.din := rfl
@[simp] theorem State.popCmd_dout : s.popCmd.dout = s.dout := rfl
@[simp] theorem State.popCmd_rsp : s.popCmd.rsp = s.rsp := rfl
@[simp] theorem State.popCmd_cmdHeld : s.popCmd.cmdHeld = false := rfl
@[simp] theorem State.popCmd_dinHeld : s.popCmd.dinHeld = s.dinHeld := rfl
@[simp] theorem State.popCmd_sched : s.popCmd.sched = s.sched := rfl
@[simp] theorem State.popCmd_rest : s.popCmd.rest = s.rest := rfl

/-! `popDin` -/

@[simp] theorem State.popDin_st : s.popDin.st = s.st := rfl
@[simp] theorem State.popDin_rem : s.popDin.rem = lenPred s.rem := rfl
@[simp] theorem State.popDin_status : s.popDin.status = s.status := rfl
@[simp] theorem State.popDin_runValid : s.popDin.runValid = s.runValid := rfl
@[simp] theorem State.popDin_runValue : s.popDin.runValue = s.runValue := rfl
@[simp] theorem State.popDin_runCount : s.popDin.runCount = s.runCount := rfl
@[simp] theorem State.popDin_serCount : s.popDin.serCount = s.serCount := rfl
@[simp] theorem State.popDin_serValue : s.popDin.serValue = s.serValue := rfl
@[simp] theorem State.popDin_serIdx : s.popDin.serIdx = s.serIdx := rfl
@[simp] theorem State.popDin_desIdx : s.popDin.desIdx = s.desIdx := rfl
@[simp] theorem State.popDin_desHi : s.popDin.desHi = s.desHi := rfl
@[simp] theorem State.popDin_expCount : s.popDin.expCount = s.expCount := rfl
@[simp] theorem State.popDin_expValue : s.popDin.expValue = s.expValue := rfl
@[simp] theorem State.popDin_cmd : s.popDin.cmd = s.cmd := rfl
@[simp] theorem State.popDin_din : s.popDin.din = s.din.tail := rfl
@[simp] theorem State.popDin_dout : s.popDin.dout = s.dout := rfl
@[simp] theorem State.popDin_rsp : s.popDin.rsp = s.rsp := rfl
@[simp] theorem State.popDin_cmdHeld : s.popDin.cmdHeld = s.cmdHeld := rfl
@[simp] theorem State.popDin_dinHeld : s.popDin.dinHeld = false := rfl
@[simp] theorem State.popDin_sched : s.popDin.sched = s.sched := rfl
@[simp] theorem State.popDin_rest : s.popDin.rest = s.rest := rfl

/-! `putDout` -/

@[simp] theorem State.putDout_st (b : Byte) : (s.putDout b).st = s.st := rfl
@[simp] theorem State.putDout_rem (b : Byte) : (s.putDout b).rem = s.rem := rfl
@[simp] theorem State.putDout_status (b : Byte) : (s.putDout b).status = s.status := rfl
@[simp] theorem State.putDout_runValid (b : Byte) : (s.putDout b).runValid = s.runValid := rfl
@[simp] theorem State.putDout_runValue (b : Byte) : (s.putDout b).runValue = s.runValue := rfl
@[simp] theorem State.putDout_runCount (b : Byte) : (s.putDout b).runCount = s.runCount := rfl
@[simp] theorem State.putDout_serCount (b : Byte) : (s.putDout b).serCount = s.serCount := rfl
@[simp] theorem State.putDout_serValue (b : Byte) : (s.putDout b).serValue = s.serValue := rfl
@[simp] theorem State.putDout_serIdx (b : Byte) : (s.putDout b).serIdx = s.serIdx := rfl
@[simp] theorem State.putDout_desIdx (b : Byte) : (s.putDout b).desIdx = s.desIdx := rfl
@[simp] theorem State.putDout_desHi (b : Byte) : (s.putDout b).desHi = s.desHi := rfl
@[simp] theorem State.putDout_expCount (b : Byte) : (s.putDout b).expCount = s.expCount := rfl
@[simp] theorem State.putDout_expValue (b : Byte) : (s.putDout b).expValue = s.expValue := rfl
@[simp] theorem State.putDout_cmd (b : Byte) : (s.putDout b).cmd = s.cmd := rfl
@[simp] theorem State.putDout_din (b : Byte) : (s.putDout b).din = s.din := rfl
@[simp] theorem State.putDout_dout (b : Byte) : (s.putDout b).dout = s.dout ++ [b] := rfl
@[simp] theorem State.putDout_rsp (b : Byte) : (s.putDout b).rsp = s.rsp := rfl
@[simp] theorem State.putDout_cmdHeld (b : Byte) : (s.putDout b).cmdHeld = s.cmdHeld := rfl
@[simp] theorem State.putDout_dinHeld (b : Byte) : (s.putDout b).dinHeld = s.dinHeld := rfl
@[simp] theorem State.putDout_sched (b : Byte) : (s.putDout b).sched = s.sched := rfl
@[simp] theorem State.putDout_rest (b : Byte) : (s.putDout b).rest = s.rest := rfl

/-! `putRsp` -/

@[simp] theorem State.putRsp_st (v : Status) : (s.putRsp v).st = s.st := rfl
@[simp] theorem State.putRsp_rem (v : Status) : (s.putRsp v).rem = s.rem := rfl
@[simp] theorem State.putRsp_status (v : Status) : (s.putRsp v).status = s.status := rfl
@[simp] theorem State.putRsp_runValid (v : Status) : (s.putRsp v).runValid = s.runValid := rfl
@[simp] theorem State.putRsp_runValue (v : Status) : (s.putRsp v).runValue = s.runValue := rfl
@[simp] theorem State.putRsp_runCount (v : Status) : (s.putRsp v).runCount = s.runCount := rfl
@[simp] theorem State.putRsp_serCount (v : Status) : (s.putRsp v).serCount = s.serCount := rfl
@[simp] theorem State.putRsp_serValue (v : Status) : (s.putRsp v).serValue = s.serValue := rfl
@[simp] theorem State.putRsp_serIdx (v : Status) : (s.putRsp v).serIdx = s.serIdx := rfl
@[simp] theorem State.putRsp_desIdx (v : Status) : (s.putRsp v).desIdx = s.desIdx := rfl
@[simp] theorem State.putRsp_desHi (v : Status) : (s.putRsp v).desHi = s.desHi := rfl
@[simp] theorem State.putRsp_expCount (v : Status) : (s.putRsp v).expCount = s.expCount := rfl
@[simp] theorem State.putRsp_expValue (v : Status) : (s.putRsp v).expValue = s.expValue := rfl
@[simp] theorem State.putRsp_cmd (v : Status) : (s.putRsp v).cmd = s.cmd := rfl
@[simp] theorem State.putRsp_din (v : Status) : (s.putRsp v).din = s.din := rfl
@[simp] theorem State.putRsp_dout (v : Status) : (s.putRsp v).dout = s.dout := rfl
@[simp] theorem State.putRsp_rsp (v : Status) : (s.putRsp v).rsp = s.rsp ++ [v] := rfl
@[simp] theorem State.putRsp_cmdHeld (v : Status) : (s.putRsp v).cmdHeld = s.cmdHeld := rfl
@[simp] theorem State.putRsp_dinHeld (v : Status) : (s.putRsp v).dinHeld = s.dinHeld := rfl
@[simp] theorem State.putRsp_sched (v : Status) : (s.putRsp v).sched = s.sched := rfl
@[simp] theorem State.putRsp_rest (v : Status) : (s.putRsp v).rest = s.rest := rfl

/-! `tick` -/

@[simp] theorem State.tick_st : s.tick.st = s.st := rfl
@[simp] theorem State.tick_rem : s.tick.rem = s.rem := rfl
@[simp] theorem State.tick_status : s.tick.status = s.status := rfl
@[simp] theorem State.tick_runValid : s.tick.runValid = s.runValid := rfl
@[simp] theorem State.tick_runValue : s.tick.runValue = s.runValue := rfl
@[simp] theorem State.tick_runCount : s.tick.runCount = s.runCount := rfl
@[simp] theorem State.tick_serCount : s.tick.serCount = s.serCount := rfl
@[simp] theorem State.tick_serValue : s.tick.serValue = s.serValue := rfl
@[simp] theorem State.tick_serIdx : s.tick.serIdx = s.serIdx := rfl
@[simp] theorem State.tick_desIdx : s.tick.desIdx = s.desIdx := rfl
@[simp] theorem State.tick_desHi : s.tick.desHi = s.desHi := rfl
@[simp] theorem State.tick_expCount : s.tick.expCount = s.expCount := rfl
@[simp] theorem State.tick_expValue : s.tick.expValue = s.expValue := rfl
@[simp] theorem State.tick_cmd : s.tick.cmd = s.cmd := rfl
@[simp] theorem State.tick_din : s.tick.din = s.din := rfl
@[simp] theorem State.tick_dout : s.tick.dout = s.dout := rfl
@[simp] theorem State.tick_rsp : s.tick.rsp = s.rsp := rfl
@[simp] theorem State.tick_cmdHeld : s.tick.cmdHeld = (s.cmdHeld || s.edge.cmdOffer) := rfl
@[simp] theorem State.tick_dinHeld : s.tick.dinHeld = (s.dinHeld || s.edge.dinOffer) := rfl
@[simp] theorem State.tick_sched : s.tick.sched = s.sched.tail := rfl
@[simp] theorem State.tick_rest : s.tick.rest = s.rest := rfl

end Sys2Proof.Machine
end

