-- ==== Sys2Proof/Laws/Words.lean ====
section
/-! SUPPORT. The record's bytes as numbers, the two counters of 16 bits that count by one, and lengths as numbers. -/

namespace Sys2Proof

theorem highByte_toNat (c : Count) : (highByte c).toNat = c.toNat / 256 := by
  have := c.isLt
  simp only [highByte, BitVec.toNat_ofNat]
  omega

theorem lowByte_toNat (c : Count) : (lowByte c).toNat = c.toNat % 256 := by
  simp [lowByte]

theorem countOf_toNat (a b : Byte) : (countOf a b).toNat = 256 * a.toNat + b.toNat := by
  have := a.isLt
  have := b.isLt
  simp only [countOf, BitVec.toNat_ofNat]
  omega

/-- The two bytes of a count make the count. -/
theorem countOf_bytes (c : Count) : countOf (highByte c) (lowByte c) = c := by
  apply BitVec.eq_of_toNat_eq
  rw [countOf_toNat, highByte_toNat, lowByte_toNat]
  omega

theorem highByte_countOf (a b : Byte) : highByte (countOf a b) = a := by
  apply BitVec.eq_of_toNat_eq
  rw [highByte_toNat, countOf_toNat]
  have := b.isLt
  omega

theorem lowByte_countOf (a b : Byte) : lowByte (countOf a b) = b := by
  apply BitVec.eq_of_toNat_eq
  rw [lowByte_toNat, countOf_toNat]
  have := b.isLt
  omega

/-- A count that is not full counts up without wrapping (R101). -/
theorem count_succ_toNat {c : Count} (h : c.toNat < 65535) : (c + 1).toNat = c.toNat + 1 := by
  rw [BitVec.toNat_add]
  simp
  omega

/-- A count that is not 0 counts down without wrapping. -/
theorem count_pred_toNat {c : Count} (h : 0 < c.toNat) : (c - 1).toNat = c.toNat - 1 := by
  have := c.isLt
  rw [BitVec.toNat_sub]
  simp
  omega

/-! ### Lengths -/

@[simp] theorem lenShort_toNat (n : Nat) (h : n < 4) : (lenShort n h).toNat = n := rfl

@[simp] theorem lenPred_toNat (n : Len) : (lenPred n).toNat = n.toNat - 1 := rfl

/-- `lenPred` is the subtraction of the length's type where that one does not wrap (R22). -/
theorem lenPred_eq_sub {n : Len} (h : 0 < n.toNat) : lenPred n = n - 1 := by
  have hn := n.isLt
  have h4 := four_le_lengths
  have h1 : (1 : Len).toNat = 1 := by
    rw [show (1 : Len) = BitVec.ofNat Config.lenWidth 1 from rfl, BitVec.toNat_ofNat]
    exact Nat.mod_eq_of_lt (by omega)
  apply BitVec.eq_of_toNat_eq
  rw [lenPred_toNat, BitVec.toNat_sub, h1,
    show 2 ^ Config.lenWidth - 1 + n.toNat = n.toNat - 1 + 2 ^ Config.lenWidth by omega, Nat.add_mod_right,
    Nat.mod_eq_of_lt (by omega)]

theorem len_eq_zero_iff {n : Len} : n = 0 ↔ n.toNat = 0 := by
  constructor
  · rintro rfl; simp
  · intro h; exact BitVec.eq_of_toNat_eq (by simpa using h)

theorem len_pos_iff {n : Len} : 0 < n.toNat ↔ n ≠ 0 := by
  rw [ne_eq, len_eq_zero_iff, Nat.pos_iff_ne_zero]

/-- A length that `cmd_len` can carry is on its wires as itself (R62). -/
theorem lenOf_of_lt {n : Nat} (h : n < 2 ^ Config.lenWidth) : lenOf n = some (BitVec.ofNatLT n h) := by
  unfold lenOf
  split
  · rfl
  · exact absurd h ‹_›

/-- What is on the wires is the length, and then it fits (R62, U8). -/
theorem lenOf_eq_some {n : Nat} {l : Len} : lenOf n = some l ↔ l.toNat = n := by
  constructor
  · intro h
    unfold lenOf at h
    split at h
    · cases h; rfl
    · cases h
  · rintro rfl
    rw [lenOf_of_lt l.isLt]
    exact congrArg some (BitVec.eq_of_toNat_eq rfl)

end Sys2Proof
end

