-- ==== Sys2Proof/Laws/Ops.lean ====
section
/-! SUPPORT. Once per shared operation, everything it can do; once per meaning and for the step, an inversion: if it
answers a next state, then one of these cases holds. Later proofs cite these and do not unfold the operations. -/

namespace Sys2Proof.Machine

/-! ### The "what next" procedures and the exception -/

theorem State.encAdvance_scan {s : State} (h : 0 < s.rem.toNat) : s.encAdvance = s.goto .encScan := by
  simp [State.encAdvance, h]

theorem State.encAdvance_flush {s : State} (h : s.rem = 0) (hv : s.runValid = true) :
    s.encAdvance = (s.latchRun.setRunValid false).goto .encEmit := by
  simp [State.encAdvance, h, hv]

theorem State.encAdvance_done {s : State} (h : s.rem = 0) (hv : s.runValid = false) :
    s.encAdvance = s.goto .resp := by
  simp [State.encAdvance, h, hv]

/-- EncAdvance does one of three things (R98). -/
theorem State.encAdvance_cases (s : State) :
    (0 < s.rem.toNat ∧ s.encAdvance = s.goto .encScan) ∨
    (s.rem = 0 ∧ s.runValid = true ∧ s.encAdvance = (s.latchRun.setRunValid false).goto .encEmit) ∨
    (s.rem = 0 ∧ s.runValid = false ∧ s.encAdvance = s.goto .resp) := by
  rcases Nat.eq_zero_or_pos s.rem.toNat with h | h
  · rw [← len_eq_zero_iff] at h
    cases hv : s.runValid
    · exact .inr (.inr ⟨h, rfl, State.encAdvance_done h hv⟩)
    · exact .inr (.inl ⟨h, rfl, State.encAdvance_flush h hv⟩)
  · exact .inl ⟨h, State.encAdvance_scan h⟩

theorem State.decAdvance_fetch {s : State} (h : 0 < s.rem.toNat) : s.decAdvance = s.goto .decFetch := by
  simp [State.decAdvance, h]

theorem State.decAdvance_done {s : State} (h : s.rem = 0) : s.decAdvance = s.goto .resp := by
  simp [State.decAdvance, h]

/-- DecAdvance does one of two things (R121). -/
theorem State.decAdvance_cases (s : State) :
    (0 < s.rem.toNat ∧ s.decAdvance = s.goto .decFetch) ∨ (s.rem = 0 ∧ s.decAdvance = s.goto .resp) := by
  rcases Nat.eq_zero_or_pos s.rem.toNat with h | h
  · rw [← len_eq_zero_iff] at h
    exact .inr ⟨h, State.decAdvance_done h⟩
  · exact .inl ⟨h, State.decAdvance_fetch h⟩

/-- The exception's entry, whole (R155). -/
theorem State.raiseMalformedInput_eq (s : State) :
    s.raiseMalformedInput = { s with
      runValid := false, serIdx := .high, desIdx := .high, status := .malformedInput, rem := 0, st := .resp } := rfl

/-- The response, whole (R83). -/
theorem State.respond_eq (s : State) : s.respond = { s with rsp := s.rsp ++ [s.status], st := .idle } := rfl

/-! ### The beats -/

/-- The byte taken by ENC.TAKE opens, extends or closes the run (R97). -/
theorem State.encScanByte_cases (s : State) (b : Byte) :
    (s.runValid = false ∧ s.encScanByte b = ((s.newRun b).setRunValid true).encAdvance) ∨
    (s.runValid = true ∧ b = s.runValue ∧ s.runCount.toNat < 65535 ∧ s.encScanByte b = s.extendRun.encAdvance) ∨
    (s.runValid = true ∧ (b ≠ s.runValue ∨ s.runCount.toNat = 65535) ∧
      s.encScanByte b = (s.latchRun.newRun b).goto .encEmit) := by
  cases hv : s.runValid
  · exact .inl ⟨rfl, by simp [State.encScanByte, hv]⟩
  · by_cases h : b = s.runValue ∧ s.runCount.toNat < 65535
    · exact .inr (.inl ⟨rfl, h.1, h.2, by simp [State.encScanByte, State.extendsRun, Config.maxCount, hv, h]⟩)
    · refine .inr (.inr ⟨rfl, ?_, by simp [State.encScanByte, State.extendsRun, Config.maxCount, hv, h]⟩)
      by_cases hb : b = s.runValue
      · have hl := s.runCount.isLt
        have hn : ¬ s.runCount.toNat < 65535 := fun hc => h ⟨hb, hc⟩
        exact .inr (by omega)
      · exact .inl hb

theorem State.serBeat_high {s : State} (h : s.serIdx = .high) :
    s.serBeat = (s.putDout (highByte s.serCount)).setSerIdx .low := by simp [State.serBeat, h]

theorem State.serBeat_low {s : State} (h : s.serIdx = .low) :
    s.serBeat = (s.putDout (lowByte s.serCount)).setSerIdx .value := by simp [State.serBeat, h]

theorem State.serBeat_value {s : State} (h : s.serIdx = .value) :
    s.serBeat = ((s.putDout s.serValue).setSerIdx .high).encAdvance := by simp [State.serBeat, h]

theorem State.fetchByte_high {s : State} (b : Byte) (h : s.desIdx = .high) :
    s.fetchByte b = (s.setDesHi b).setDesIdx .low := by simp [State.fetchByte, h]

theorem State.fetchByte_low {s : State} (b : Byte) (h : s.desIdx = .low) :
    s.fetchByte b = (s.setExpCount (countOf s.desHi b)).setDesIdx .value := by simp [State.fetchByte, h]

/-- The value byte of a record starts its expansion, or for a count 0 goes on (R120). -/
theorem State.fetchByte_value {s : State} (b : Byte) (h : s.desIdx = .value) :
    (0 < s.expCount.toNat ∧ s.fetchByte b = ((s.setExpValue b).setDesIdx .high).goto .decExpand) ∨
    (s.expCount.toNat = 0 ∧ s.fetchByte b = ((s.setExpValue b).setDesIdx .high).decAdvance) := by
  rcases Nat.eq_zero_or_pos s.expCount.toNat with hc | hc
  · exact .inr ⟨hc, by simp [State.fetchByte, h, hc]⟩
  · exact .inl ⟨hc, by simp [State.fetchByte, h, hc]⟩

/-- A copy put is the last one or not (R122). -/
theorem State.expandBeat_cases (s : State) :
    (s.expCount - 1 = 0 ∧ s.expandBeat = ((s.putDout s.expValue).setExpCount (s.expCount - 1)).decAdvance) ∨
    (s.expCount - 1 ≠ 0 ∧ s.expandBeat = (s.putDout s.expValue).setExpCount (s.expCount - 1)) := by
  by_cases h : s.expCount - 1 = 0
  · exact .inl ⟨h, by simp only [State.expandBeat, State.setExpCount_expCount, h, if_true]⟩
  · exact .inr ⟨h, by simp only [State.expandBeat, State.setExpCount_expCount, h, if_false]⟩

/-! ### The meanings -/

/-- The command on offer is the one named, and its length fits `cmd_len` (R62, U8). -/
theorem State.offeredLen_eq_some {s : State} {op : Op} {len : Nat} {l : Len} :
    s.offeredLen op len = some l ↔ s.st = .idle ∧ l.toNat = len ∧ ∃ q, s.cmd = ⟨op, l⟩ :: q := by
  cases hc : s.cmd with
  | nil => simp [State.offeredLen, hc]
  | cons c q =>
    obtain ⟨o, n⟩ := c
    simp only [State.offeredLen, hc, Option.ite_none_right_eq_some, Option.some.injEq, List.cons.injEq,
      CmdToken.mk.injEq]
    constructor
    · rintro ⟨⟨h1, rfl, rfl⟩, rfl⟩
      exact ⟨h1, rfl, q, ⟨rfl, rfl⟩, rfl⟩
    · rintro ⟨h1, rfl, _, ⟨rfl, rfl⟩, _⟩
      exact ⟨⟨h1, rfl, rfl⟩, rfl⟩

/-- The command at the head is on offer in IDLE, with its own length. -/
theorem State.offeredLen_head {s : State} {op : Op} {l : Len} {q : List CmdToken} (hs : s.st = .idle)
    (hc : s.cmd = ⟨op, l⟩ :: q) : s.offeredLen op l.toNat = some l :=
  State.offeredLen_eq_some.mpr ⟨hs, rfl, q, hc⟩

/-- A command that `cmd_len` cannot carry is never on offer (U8). -/
theorem State.offeredLen_too_long {s : State} {op : Op} {len : Nat} (h : 2 ^ Config.lenWidth ≤ len) :
    s.offeredLen op len = none := by
  cases ho : s.offeredLen op len with
  | none => rfl
  | some l =>
    obtain ⟨_, rfl, _⟩ := State.offeredLen_eq_some.mp ho
    exact absurd l.isLt (by omega)

/-- ENCODE takes its command or waits (R81). -/
theorem execEncode_next {len : Nat} {s t : State} (h : execEncode len s = .next t) :
    t = s ∨ (s.st = .idle ∧ ∃ l q, l.toNat = len ∧ s.cmd = ⟨.encode, l⟩ :: q ∧
      t = (((s.popCmd).clearIndices.setStatus .ok).setRem l).goto (if l = 0 then .resp else .encScan)) := by
  unfold execEncode at h
  split at h
  · rename_i l ho
    obtain ⟨h1, h2, q, h3⟩ := State.offeredLen_eq_some.mp ho
    have hz : l = 0 ↔ len = 0 := h2 ▸ len_eq_zero_iff
    exact .inr ⟨h1, l, q, h2, h3, by simp only [hz]; cases h; rfl⟩
  · exact .inl (by simpa using h.symm)

/-- DECODE takes its command, raising or starting, or waits (R82). -/
theorem execDecode_next {len : Nat} {s t : State} (h : execDecode len s = .next t) :
    t = s ∨ (s.st = .idle ∧ ∃ l q, l.toNat = len ∧ s.cmd = ⟨.decode, l⟩ :: q ∧
      ((len % 3 ≠ 0 ∧ t = s.popCmd.raiseMalformedInput) ∨
       (len % 3 = 0 ∧
        t = (((s.popCmd).clearIndices.setStatus .ok).setRem l).goto (if l = 0 then .resp else .decFetch)))) := by
  unfold execDecode at h
  split at h
  · rename_i l ho
    obtain ⟨h1, h2, q, h3⟩ := State.offeredLen_eq_some.mp ho
    have hz : l = 0 ↔ len = 0 := h2 ▸ len_eq_zero_iff
    refine .inr ⟨h1, l, q, h2, h3, ?_⟩
    split at h <;> rename_i hm <;> simp only [lengthMalformed, decide_eq_true_eq] at hm
    · exact .inl ⟨hm, by simpa using h.symm⟩
    · exact .inr ⟨Decidable.not_not.mp hm, by simp only [hz]; cases h; rfl⟩
  · exact .inl (by simpa using h.symm)

/-- ENC.TAKE takes a byte or waits (R97). -/
theorem execEncTake_next {s t : State} (h : execEncTake s = .next t) :
    t = s ∨ (s.st = .encScan ∧ 0 < s.rem.toNat ∧ ∃ b d, s.din = b :: d ∧ t = s.popDin.encScanByte b) := by
  unfold execEncTake at h
  split at h
  · rename_i ho
    split at h
    · exact .inl (by simpa using h.symm)
    · rename_i b d hd
      exact .inr ⟨ho.1, ho.2, b, d, hd, by simpa using h.symm⟩
  · exact .inl (by simpa using h.symm)

/-- SER.PUT puts a byte or waits (R110). -/
theorem execSerPut_next {s t : State} (h : execSerPut s = .next t) :
    t = s ∨ (s.st = .encEmit ∧ t = s.serBeat) := by
  unfold execSerPut at h
  split at h
  · rename_i ho; exact .inr ⟨ho, by simpa using h.symm⟩
  · exact .inl (by simpa using h.symm)

/-- DES.TAKE takes a byte or waits (R120). -/
theorem execDesTake_next {s t : State} (h : execDesTake s = .next t) :
    t = s ∨ (s.st = .decFetch ∧ 0 < s.rem.toNat ∧ ∃ b d, s.din = b :: d ∧ t = s.popDin.fetchByte b) := by
  unfold execDesTake at h
  split at h
  · rename_i ho
    split at h
    · exact .inl (by simpa using h.symm)
    · rename_i b d hd
      exact .inr ⟨ho.1, ho.2, b, d, hd, by simpa using h.symm⟩
  · exact .inl (by simpa using h.symm)

/-- EXP.PUT puts a copy or waits (R122). -/
theorem execExpPut_next {s t : State} (h : execExpPut s = .next t) :
    t = s ∨ (s.st = .decExpand ∧ 0 < s.expCount.toNat ∧ t = s.expandBeat) := by
  unfold execExpPut at h
  split at h
  · rename_i ho; exact .inr ⟨ho.1, ho.2, by simpa using h.symm⟩
  · exact .inl (by simpa using h.symm)

/-- CTL.RESP responds or waits (R83). -/
theorem execCtlResp_next {s t : State} (h : execCtlResp s = .next t) :
    t = s ∨ (s.st = .resp ∧ t = s.respond) := by
  unfold execCtlResp at h
  split at h
  · rename_i ho; exact .inr ⟨ho, by simpa using h.symm⟩
  · exact .inl (by simpa using h.symm)

/-- RSP.OK responds or waits (R83). -/
theorem execRspOk_next {s t : State} (h : execRspOk s = .next t) :
    t = s ∨ (s.st = .resp ∧ s.status = .ok ∧ t = s.respond) := by
  unfold execRspOk at h
  split at h
  · rename_i ho; exact .inr ⟨ho.1, ho.2, by simpa using h.symm⟩
  · exact .inl (by simpa using h.symm)

/-- RSP.MALFORMED responds or waits (R83). -/
theorem execRspMalformed_next {s t : State} (h : execRspMalformed s = .next t) :
    t = s ∨ (s.st = .resp ∧ s.status = .malformedInput ∧ t = s.respond) := by
  unfold execRspMalformed at h
  split at h
  · rename_i ho; exact .inr ⟨ho.1, ho.2, by simpa using h.symm⟩
  · exact .inl (by simpa using h.symm)

/-- Three bytes at the head of a list. -/
theorem take_three_eq_pack {d : List Byte} {r : Record} (h : d.take 3 = pack r) : d = pack r ++ d.drop 3 := by
  rw [← h, List.take_append_drop]

/-- REC is unpacked, is packed, or waits (R105, R107). -/
theorem execRecord_next {c : Count} {v : Byte} {s t : State} (h : execRecord c v s = .next t) :
    t = s ∨
    (s.st = .decFetch ∧ s.desIdx = .high ∧ 3 ≤ s.rem.toNat ∧ (∃ d, s.din = pack ⟨c, v⟩ ++ d) ∧
      t = s.takeRecord ⟨c, v⟩) ∨
    (s.st = .encEmit ∧ s.serIdx = .high ∧ s.serCount = c ∧ s.serValue = v ∧ t = s.putRecord) := by
  unfold execRecord at h
  split at h
  · rename_i ho
    simp only [State.offersRecord, decide_eq_true_eq] at ho
    exact .inr (.inl ⟨ho.1, ho.2.1, ho.2.2.1, ⟨_, take_three_eq_pack ho.2.2.2⟩, by simpa using h.symm⟩)
  · split at h
    · rename_i ho
      simp only [State.holdsRecord, State.latched, decide_eq_true_eq, Record.mk.injEq] at ho
      exact .inr (.inr ⟨ho.1, ho.2.1, ho.2.2.1, ho.2.2.2, by simpa using h.symm⟩)
    · exact .inl (by simpa using h.symm)

/-! ### The step -/

/-- One edge: reset, or nothing moves, or the selected operation is performed (R42, R170). -/
theorem step_cases {s t : State} (h : step s = .next t) :
    (s.edge.rst = true ∧ t = s.tick.resetEdge s.edge) ∨
    (s.edge.rst = false ∧ s.fires s.edge = none ∧ t = s.tick) ∨
    (s.edge.rst = false ∧ ∃ i, s.handshake s.edge = true ∧ s.selected = some i ∧ exec i s.tick = .next t) := by
  unfold step clockEdge at h
  split at h
  · rename_i hr; exact .inl ⟨hr, by simpa using h.symm⟩
  · rename_i hr
    have hr : s.edge.rst = false := by simpa using hr
    split at h
    · rename_i i hi
      unfold State.fires at hi
      split at hi
      · rename_i hh; exact .inr (.inr ⟨hr, i, hh, hi, h⟩)
      · cases hi
    · rename_i hi; exact .inr (.inl ⟨hr, hi, by simpa using h.symm⟩)

/-- A step whose operation is selected and whose handshake is made performs it. -/
theorem step_performs {s : State} {i : Instr} (hr : s.edge.rst = false) (hh : s.handshake s.edge = true)
    (hi : s.selected = some i) : step s = exec i s.tick := by
  simp [step, clockEdge, State.fires, hr, hh, hi]

/-- A step without a handshake only uses up the edge. -/
theorem step_waits {s : State} (hr : s.edge.rst = false) (hh : s.handshake s.edge = false) :
    step s = .next s.tick := by
  simp [step, clockEdge, State.fires, hr, hh]

/-- Which operation is selected (R65, R67). -/
theorem State.selected_cases {s : State} {i : Instr} (h : s.selected = some i) :
    (s.st = .idle ∧ ∃ c q, s.cmd = c :: q ∧ i = c.instr) ∨ (s.st = .encScan ∧ i = .encTake) ∨
    (s.st = .encEmit ∧ i = .serPut) ∨ (s.st = .decFetch ∧ i = .desTake) ∨ (s.st = .decExpand ∧ i = .expPut) ∨
    (s.st = .resp ∧ i = .ctlResp) := by
  cases hs : s.st <;> simp [State.selected, Phase.code, decodeStep, hs] at h ⊢
  case idle =>
    obtain ⟨c, hc, rfl⟩ := h
    obtain ⟨q, hq⟩ := List.head?_eq_some_iff.mp hc
    exact ⟨c, ⟨q, hq⟩, rfl⟩
  all_goals exact h.symm

end Sys2Proof.Machine
end

