-- ==== Sys2Proof/Laws/Frames.lean ====
section
/-! SUPPORT. What each shared operation leaves alone, and which token it moves. -/

namespace Sys2Proof.Machine

/-! ### Using up an edge -/

theorem State.tick_noToken (s : State) : s.NoToken s.tick := ⟨rfl, rfl, rfl, rfl⟩

theorem State.tick_sameRegs (s : State) : s.SameRegs s.tick := by simp [State.SameRegs]

theorem State.tick_selected (s : State) : s.tick.selected = s.selected := rfl

/-- What is raised at the edge stays raised (R42, R185). -/
theorem State.tick_valid (s : State) :
    (s.cmdValid s.edge = true → s.tick.cmdHeld = true) ∧ (s.dinValid s.edge = true → s.tick.dinHeld = true) := by
  constructor <;> intro h
  · simp only [State.cmdValid, Bool.and_eq_true] at h
    exact h.1
  · simp only [State.dinValid, Bool.and_eq_true] at h
    exact h.1

theorem State.tick_inv {s : State} : s.tick.Inv ↔ s.Inv := Iff.rfl

/-! ### The "what next" procedures -/

theorem State.encAdvance_frame (s : State) :
    s.NoToken s.encAdvance ∧ s.encAdvance.rem = s.rem ∧ s.encAdvance.status = s.status ∧
      s.SameDecoder s.encAdvance ∧ s.SameEnv s.encAdvance ∧ s.encAdvance.runValue = s.runValue ∧
      s.encAdvance.runCount = s.runCount := by
  rcases s.encAdvance_cases with ⟨_, h⟩ | ⟨_, _, h⟩ | ⟨_, _, h⟩ <;> rw [h] <;>
    simp [State.NoToken, State.SameDecoder, State.SameEnv]

theorem State.decAdvance_frame (s : State) :
    s.NoToken s.decAdvance ∧ s.decAdvance.rem = s.rem ∧ s.decAdvance.status = s.status ∧
      s.SameDecoder s.decAdvance ∧ s.SameEncoder s.decAdvance ∧ s.SameEnv s.decAdvance := by
  rcases s.decAdvance_cases with ⟨_, h⟩ | ⟨_, h⟩ <;> rw [h] <;>
    simp [State.NoToken, State.SameDecoder, State.SameEncoder, State.SameEnv]

/-! ### The token each beat moves -/

theorem State.serBeat_puts (s : State) : s.PutDout s.serBeat s.serByte := by
  cases h : s.serIdx
  · rw [State.serBeat_high h]
    simp [State.PutDout, State.serByte, h]
  · rw [State.serBeat_low h]
    simp [State.PutDout, State.serByte, h]
  · rw [State.serBeat_value h]
    have hf := ((s.putDout s.serValue).setSerIdx .high).encAdvance_frame.1
    simp only [State.NoToken] at hf
    simp [State.PutDout, State.serByte, h, hf]

theorem State.expandBeat_puts (s : State) : s.PutDout s.expandBeat s.expValue := by
  rcases s.expandBeat_cases with ⟨_, h⟩ | ⟨_, h⟩ <;> rw [h]
  · have hf := ((s.putDout s.expValue).setExpCount (s.expCount - 1)).decAdvance_frame.1
    exact ⟨hf.2.2.1, hf.1, hf.2.1, hf.2.2.2⟩
  · simp [State.PutDout]

theorem State.encScanByte_takes {s : State} {b : Byte} {d : List Byte} (h : s.din = b :: d) (x : Byte) :
    s.TookDin (s.popDin.encScanByte x) b := by
  rcases s.popDin.encScanByte_cases x with ⟨_, he⟩ | ⟨_, _, _, he⟩ | ⟨_, _, he⟩ <;> rw [he]
  · have hf := ((s.popDin.newRun x).setRunValid true).encAdvance_frame.1
    simp only [State.NoToken] at hf
    simp [State.TookDin, h, hf]
  · have hf := s.popDin.extendRun.encAdvance_frame.1
    simp only [State.NoToken] at hf
    simp [State.TookDin, h, hf]
  · simp [State.TookDin, h]

theorem State.fetchByte_takes {s : State} {b : Byte} {d : List Byte} (h : s.din = b :: d) (x : Byte) :
    s.TookDin (s.popDin.fetchByte x) b := by
  cases hi : s.popDin.desIdx
  · rw [State.fetchByte_high x hi]
    simp [State.TookDin, h]
  · rw [State.fetchByte_low x hi]
    simp [State.TookDin, h]
  · rcases State.fetchByte_value x hi with ⟨_, he⟩ | ⟨_, he⟩ <;> rw [he]
    · simp [State.TookDin, h]
    · have hf := ((s.popDin.setExpValue x).setDesIdx .high).decAdvance_frame.1
      simp only [State.NoToken] at hf
      simp [State.TookDin, h, hf]

theorem State.respond_puts (s : State) : s.PutRsp s.respond s.status := by simp [State.respond, State.PutRsp]

/-! ### What each beat leaves alone -/

theorem State.encScanByte_frame (s : State) (b : Byte) :
    (s.encScanByte b).status = s.status ∧ s.SameDecoder (s.encScanByte b) ∧ s.SameEnv (s.encScanByte b) ∧
      (s.encScanByte b).rem = s.rem ∧
      ((s.encScanByte b).st ≠ .encEmit → (s.encScanByte b).serCount = s.serCount ∧
        (s.encScanByte b).serValue = s.serValue ∧ (s.encScanByte b).serIdx = s.serIdx) := by
  rcases s.encScanByte_cases b with ⟨_, he⟩ | ⟨_, _, _, he⟩ | ⟨_, _, he⟩ <;> rw [he]
  · rcases State.encAdvance_cases ((s.newRun b).setRunValid true) with ⟨_, h⟩ | ⟨_, _, h⟩ | ⟨_, _, h⟩ <;>
      rw [h] <;> simp [State.SameDecoder, State.SameEnv]
  · rcases State.encAdvance_cases s.extendRun with ⟨_, h⟩ | ⟨_, _, h⟩ | ⟨_, _, h⟩ <;>
      rw [h] <;> simp [State.SameDecoder, State.SameEnv]
  · simp [State.SameDecoder, State.SameEnv]

theorem State.serBeat_frame (s : State) :
    s.serBeat.rem = s.rem ∧ s.serBeat.status = s.status ∧ s.serBeat.runValue = s.runValue ∧
      s.serBeat.runCount = s.runCount ∧ s.SameDecoder s.serBeat ∧ s.SameEnv s.serBeat := by
  cases hx : s.serIdx
  · rw [State.serBeat_high hx]
    simp [State.SameDecoder, State.SameEnv]
  · rw [State.serBeat_low hx]
    simp [State.SameDecoder, State.SameEnv]
  · rw [State.serBeat_value hx]
    rcases State.encAdvance_cases ((s.putDout s.serValue).setSerIdx .high) with ⟨_, h⟩ | ⟨_, _, h⟩ | ⟨_, _, h⟩ <;>
      rw [h] <;> simp [State.SameDecoder, State.SameEnv]

theorem State.fetchByte_frame (s : State) (b : Byte) :
    (s.fetchByte b).status = s.status ∧ s.SameEncoder (s.fetchByte b) ∧ s.SameEnv (s.fetchByte b) ∧
      (s.fetchByte b).rem = s.rem := by
  cases hx : s.desIdx
  · rw [State.fetchByte_high _ hx]
    simp [State.SameEncoder, State.SameEnv]
  · rw [State.fetchByte_low _ hx]
    simp [State.SameEncoder, State.SameEnv]
  · rcases State.fetchByte_value b hx with ⟨_, h⟩ | ⟨_, h⟩ <;> rw [h]
    · simp [State.SameEncoder, State.SameEnv]
    · rcases State.decAdvance_cases ((s.setExpValue b).setDesIdx .high) with ⟨_, h⟩ | ⟨_, h⟩ <;>
        rw [h] <;> simp [State.SameEncoder, State.SameEnv]

theorem State.expandBeat_frame (s : State) :
    s.expandBeat.rem = s.rem ∧ s.expandBeat.status = s.status ∧ s.SameEncoder s.expandBeat ∧
      s.expandBeat.expValue = s.expValue ∧ s.SameEnv s.expandBeat := by
  rcases s.expandBeat_cases with ⟨_, h⟩ | ⟨_, h⟩ <;> rw [h]
  · rcases State.decAdvance_cases ((s.putDout s.expValue).setExpCount (s.expCount - 1)) with ⟨_, h⟩ | ⟨_, h⟩ <;>
      rw [h] <;> simp [State.SameEncoder, State.SameEnv]
  · simp [State.SameEncoder, State.SameEnv]

/-! ### What is held on offer (R42): only a take lets go of it -/

theorem State.encAdvance_held (s : State) :
    s.encAdvance.cmdHeld = s.cmdHeld ∧ s.encAdvance.dinHeld = s.dinHeld := by
  rcases s.encAdvance_cases with ⟨_, h⟩ | ⟨_, _, h⟩ | ⟨_, _, h⟩ <;> rw [h] <;> exact ⟨rfl, rfl⟩

theorem State.decAdvance_held (s : State) :
    s.decAdvance.cmdHeld = s.cmdHeld ∧ s.decAdvance.dinHeld = s.dinHeld := by
  rcases s.decAdvance_cases with ⟨_, h⟩ | ⟨_, h⟩ <;> rw [h] <;> exact ⟨rfl, rfl⟩

theorem State.encScanByte_held (s : State) (b : Byte) :
    (s.encScanByte b).cmdHeld = s.cmdHeld ∧ (s.encScanByte b).dinHeld = s.dinHeld := by
  rcases s.encScanByte_cases b with ⟨_, h⟩ | ⟨_, _, _, h⟩ | ⟨_, _, h⟩ <;> rw [h]
  · exact State.encAdvance_held _
  · exact State.encAdvance_held _
  · exact ⟨rfl, rfl⟩

theorem State.serBeat_held (s : State) : s.serBeat.cmdHeld = s.cmdHeld ∧ s.serBeat.dinHeld = s.dinHeld := by
  cases h : s.serIdx
  · rw [State.serBeat_high h]; exact ⟨rfl, rfl⟩
  · rw [State.serBeat_low h]; exact ⟨rfl, rfl⟩
  · rw [State.serBeat_value h]; exact State.encAdvance_held _

theorem State.fetchByte_held (s : State) (b : Byte) :
    (s.fetchByte b).cmdHeld = s.cmdHeld ∧ (s.fetchByte b).dinHeld = s.dinHeld := by
  cases h : s.desIdx
  · rw [State.fetchByte_high b h]; exact ⟨rfl, rfl⟩
  · rw [State.fetchByte_low b h]; exact ⟨rfl, rfl⟩
  · rcases State.fetchByte_value b h with ⟨_, g⟩ | ⟨_, g⟩ <;> rw [g]
    · exact ⟨rfl, rfl⟩
    · exact State.decAdvance_held _

theorem State.expandBeat_held (s : State) :
    s.expandBeat.cmdHeld = s.cmdHeld ∧ s.expandBeat.dinHeld = s.dinHeld := by
  rcases s.expandBeat_cases with ⟨_, h⟩ | ⟨_, h⟩ <;> rw [h]
  · exact State.decAdvance_held _
  · exact ⟨rfl, rfl⟩

/-- Reset leaves the environment's coming edges alone (log 4). -/
theorem State.resetEdge_env (s : State) (e : Edge) : s.SameEnv (s.resetEdge e) := ⟨rfl, rfl⟩

end Sys2Proof.Machine
end

