-- ==== Sys2Proof/Laws/PerInstr.lean ====
section
/-! SUPPORT. The statements made for every operation as syntax, one lemma per constructor: the word of an operation
that fits the wires has no bit above its format's length (R60). -/

namespace Sys2Proof.Laws.WordFits

/-- The word fits the format's length, for every width of `cmd_len` that the operation fits. -/
def Statement (i : Instr) : Prop := ∀ lw, i.fits lw = true → encodeWordAt lw i < 2 ^ i.format.bits lw

theorem encode (len : Nat) : Statement (.encode len) := by
  intro lw h
  simp only [Instr.fits, decide_eq_true_eq] at h
  simp only [encodeWordAt, Instr.format, Format.bits, Nat.add_comm 1, pow_succ]
  omega

theorem decode (len : Nat) : Statement (.decode len) := by
  intro lw h
  simp only [Instr.fits, decide_eq_true_eq] at h
  simp only [encodeWordAt, Instr.format, Format.bits, Nat.add_comm 1, pow_succ]
  omega

theorem encTake : Statement .encTake := by intro lw _; simp [encodeWordAt, Instr.format, Format.bits]

theorem serPut : Statement .serPut := by intro lw _; simp [encodeWordAt, Instr.format, Format.bits]

theorem desTake : Statement .desTake := by intro lw _; simp [encodeWordAt, Instr.format, Format.bits]

theorem expPut : Statement .expPut := by intro lw _; simp [encodeWordAt, Instr.format, Format.bits]

theorem ctlResp : Statement .ctlResp := by intro lw _; simp [encodeWordAt, Instr.format, Format.bits]

theorem record (count : Count) (value : Byte) : Statement (.record count value) := by
  intro lw _
  have hc := count.isLt
  have hv := value.isLt
  simp only [encodeWordAt, Instr.format, Format.bits]
  omega

theorem rspOk : Statement .rspOk := by intro lw _; simp [encodeWordAt, Instr.format, Format.bits]

theorem rspMalformed : Statement .rspMalformed := by intro lw _; simp [encodeWordAt, Instr.format, Format.bits]

end Sys2Proof.Laws.WordFits
end

