-- ==== Sys2Proof/Laws/Runs.lean ====
section
/-! SUPPORT. Runs of several steps, and what the coming edge is for the two kinds of well-behaved environment. -/

namespace Sys2Proof.Machine

theorem runSteps_succ {n : Nat} {s t : State} (h : step s = .next t) : runSteps (n + 1) s = runSteps n t := by
  rw [runSteps, h]

/-- A run of `m` steps and then `n` more. -/
theorem runSteps_add {m n : Nat} {s t : State} (h : runSteps m s = .next t) : runSteps (m + n) s = runSteps n t := by
  induction m generalizing s with
  | zero => rw [runSteps] at h; cases h; rw [Nat.zero_add]
  | succ m ih =>
    rw [runSteps] at h
    split at h
    · rename_i u hu
      rw [Nat.add_right_comm, runSteps_succ hu]
      exact ih h
    · cases h
    · cases h

/-- One more step of the host's run, for any machine. -/
theorem core_run_succ (M : Host.Core) (k : Nat) (s : M.State) :
    M.run (k + 1) s = match M.step s with
      | .next s' => M.run k s'
      | .fault r => .fault r
      | .refused r => .refused r := rfl

/-- The host's runs of this machine are the runs of Safety. -/
theorem core_run_eq (n : Nat) (s : State) : Host.Core.run Sys2Proof.core n s = runSteps n s := by
  induction n generalizing s with
  | zero => rfl
  | succ n ih =>
    refine (core_run_succ Sys2Proof.core n s).trans ?_
    have hs : Host.Core.step Sys2Proof.core s = step s := rfl
    rw [runSteps]
    cases h : step s with
    | next t => erw [hs.trans h]; exact ih t
    | fault r => cases r
    | refused r => erw [hs.trans h]; rfl

theorem State.Prompt_edge {s : State} (h : s.Prompt) : s.edge = Edge.willing := by
  simp [State.edge, h.1, h.2]

theorem State.Prompt_tick {s : State} (h : s.Prompt) : s.tick.Prompt := by
  simp [State.Prompt, h.1, h.2]

theorem State.edge_of_sched_nil {s : State} (h : s.sched = []) : s.edge = s.rest := by simp [State.edge, h]

/-- With no edge left but the last, using one up again changes nothing more. -/
theorem State.tick_tick {s : State} (h : s.sched = []) : s.tick.tick = s.tick := by
  cases s
  simp only at h
  subst h
  simp [State.tick, State.edge]

end Sys2Proof.Machine
end

