-- ==== Sys2Proof/Machine/Script.lean ====
section
/-! DEFINITION. The script notation of R71 to R73: what a line makes the environment offer, what the function level
says the line's result is, and the pseudo-operations (log 17). -/

namespace Sys2Proof.Machine

/-- A line of a script (R71). -/
inductive ScriptLine where
  /-- RESET. -/
  | reset
  /-- ENCODE bytes. -/
  | encode (bytes : List Byte)
  /-- DECODE bytes. -/
  | decode (bytes : List Byte)
  /-- EXPECT status bytes. -/
  | expect (status : Status) (bytes : List Byte)
deriving DecidableEq, Repr

/-- The command token of a line (R71); a buffer longer than `2^LEN_WIDTH` - 1 bytes has none (R186). -/
def ScriptLine.token : ScriptLine → Option CmdToken
  | .reset => none
  | .encode b => (lenOf b.length).map fun l => ⟨.encode, l⟩
  | .decode b => (lenOf b.length).map fun l => ⟨.decode, l⟩
  | .expect _ _ => none

/-- The buffer a line names (R71). -/
def ScriptLine.buffer : ScriptLine → List Byte
  | .reset => []
  | .encode b => b
  | .decode b => b
  | .expect _ _ => []

/-- The bytes the provider supplies: those of the buffer if the line's command takes input, else none (R71, R176). -/
def ScriptLine.beats (l : ScriptLine) : List Byte :=
  match l.token with
  | some t => if t.takesInput then l.buffer else []
  | none => []

/-- What the environment is set to do for one line, after all that it was set to do before (R71). -/
def ScriptLine.load (l : ScriptLine) (s : State) : State :=
  { s with
    cmd := s.cmd ++ l.token.toList
    din := s.din ++ l.beats
    sched := if l = .reset then s.sched ++ [{ Edge.willing with rst := true }] else s.sched }

/-- The status and the output buffer that the function level gives a line (R73). -/
def ScriptLine.result : ScriptLine → Option (Status × List Byte)
  | .reset => none
  | .encode b => some (.ok, Codec.encode b)
  | .decode e =>
    match Codec.decode e with
    | .ok b => some (.ok, b)
    | .error .malformedInput => some (.malformedInput, [])
  | .expect _ _ => none

/-- The pseudo-operation ROUNDTRIP (R72). -/
def roundTripLines (b : List Byte) : List ScriptLine :=
  [.encode b, .expect .ok (Codec.encode b), .decode (Codec.encode b), .expect .ok b]

/-- The pseudo-operation REC*n c v: `n` copies of PACK c v, which is `pack` (R72). -/
def recordCopies (n : Nat) (c : Count) (v : Byte) : List Byte :=
  (List.replicate n (pack ⟨c, v⟩)).flatten

end Sys2Proof.Machine
end

