-- ==== Sys2Proof/Tests/Slice0.lean ====
section
/-! SUPPORT. Own tests: the smoke test of WellFormed, words written out from the spec's encodings, one or two single
steps per operation taken from the tables and traces of 95_test_vectors.md, and for every statement with hypotheses a
concrete state that meets them. -/

namespace Sys2Proof.Tests

open Sys2Proof Sys2Proof.Machine

/-! ### Helpers -/

/-- The next state of an outcome, if it is one. -/
def nextOf : Result → Option State
  | .next s => some s
  | .fault _ => none
  | .refused _ => none

/-- The lengths 0 to 3, which every `LEN_WIDTH` of the spec has; a longer one has no value while `LEN_WIDTH` is open. -/
def short (n : Fin 4) : Len := lenShort n.val n.isLt

/-- A command token of such a length. -/
def tok (op : Op) (n : Fin 4) : CmdToken := ⟨op, short n⟩

/-- After reset, with commands and bytes on offer. -/
def idleWith (cs : List CmdToken) (d : List Byte) : State := { State.reset with cmd := cs, din := d }

/-- Scanning with the run `(n, v)` open and `r` bytes to come. -/
def scanWith (r : Fin 4) (n : Count) (v : Byte) (d : List Byte) : State :=
  { State.reset with st := .encScan, rem := short r, runValid := true, runCount := n, runValue := v, din := d }

/-- Scanning directly after an ENCODE command. -/
def scanFresh (r : Fin 4) (d : List Byte) : State := { State.reset with st := .encScan, rem := short r, din := d }

/-- Putting out the record `(n, v)`, no run open, `k` bytes of it put. -/
def emitLast (n : Count) (v : Byte) (k : RecIdx) : State :=
  { State.reset with st := .encEmit, serCount := n, serValue := v, serIdx := k }

/-- Putting out the record `(n, v)` with the run `(m, u)` open and `r` bytes to come. -/
def emitWith (r : Fin 4) (n : Count) (v : Byte) (k : RecIdx) (m : Count) (u : Byte) : State :=
  { emitLast n v k with rem := short r, runValid := true, runCount := m, runValue := u }

/-- Fetching byte `k` of a record with `r` bytes to come. -/
def fetchWith (r : Fin 4) (k : RecIdx) (hi : Byte) (c : Count) (d : List Byte) : State :=
  { State.reset with st := .decFetch, rem := short r, desIdx := k, desHi := hi, expCount := c, din := d }

/-- Putting copies of `v`, `c` still to be put, `r` bytes to come. -/
def expandWith (r : Fin 4) (c : Count) (v : Byte) : State :=
  { State.reset with st := .decExpand, rem := short r, expCount := c, expValue := v }

/-- Putting the response. -/
def respWith (v : Status) : State := { State.reset with st := .resp, status := v }

/-- An edge at which nobody is willing. -/
def Edge.shy : Edge :=
  { Edge.willing with cmdOffer := false, dinOffer := false, doutReady := false, rspReady := false }

/-- An edge with reset. -/
def Edge.resetting : Edge := { Edge.willing with rst := true }

/-! ### WellFormed (R62, R186): a length that `cmd_len` cannot carry is refused, every shorter one is not -/

theorem test_wf_refuses_long_encode : (Instr.encode (2 ^ Config.lenWidth)).wf = false := by
  simp [Instr.wf, Instr.fits]

theorem test_wf_refuses_long_decode : (Instr.decode (2 ^ Config.lenWidth)).wf = false := by
  simp [Instr.wf, Instr.fits]

theorem test_wf_takes_longest : (Instr.encode (2 ^ Config.lenWidth - 1)).wf = true := by
  simp [Instr.wf, Instr.fits]

theorem test_fits_at_32 : (Instr.decode 4294967295).fits 32 = true ∧ (Instr.decode 4294967296).fits 32 = false := by
  decide

/-! ### Words written out bit by bit (30_encoding.md sections 1 and 2) -/

/-- `{op, len}` with op 0 and len 4, 33 bits. -/
theorem test_word_encode :
    decodeWordAt 32 .cmd 0b000000000000000000000000000000100 = .ok (.encode 4) := by decide

/-- `{op, len}` with op 1 and len 6, 33 bits. -/
theorem test_word_decode :
    decodeWordAt 32 .cmd 0b100000000000000000000000000000110 = .ok (.decode 6) := by decide

/-- The ST codes 001 to 101. -/
theorem test_word_steps :
    [0b001, 0b010, 0b011, 0b100, 0b101].map (decodeWordAt 32 .step) =
      [.ok .encTake, .ok .serPut, .ok .desTake, .ok .expPut, .ok .ctlResp] := by decide

/-- The ST codes that are no step. -/
theorem test_word_no_step :
    [0b000, 0b110, 0b111, 0b1000].map (decodeWordAt 32 .step) =
      [.error .idleSelectsCommand, .error .unusedStateCode, .error .unusedStateCode, .error .tooWide] := by decide

/-- S5, bytes 01 02 10: high count byte first. -/
theorem test_word_record :
    decodeWordAt 32 .record 0b000000010000001000010000 = .ok (.record 258 0x10) := by decide

/-- S10: count 0 is a record. -/
theorem test_word_record_zero : decodeWordAt 32 .record 0x000041 = .ok (.record 0 0x41) := by decide

/-- The two status bits. -/
theorem test_word_rsp :
    decodeWordAt 32 .rsp 0b0 = .ok .rspOk ∧ decodeWordAt 32 .rsp 0b1 = .ok .rspMalformed := by decide

/-- The opcode table's rows by their exact widths. -/
theorem test_table_words :
    decodeTableWord 33 0x000000005 = some (.encode 5) ∧ decodeTableWord 40 0x100000003 = some (.decode 3) ∧
    decodeTableWord 24 0xFFFFFF = some (.record 65535 0xFF) ∧ decodeTableWord 3 4 = some .expPut ∧
    decodeTableWord 1 1 = some .rspMalformed := by decide

/-- The rows in whole bytes (log 3). -/
theorem test_table_bytes :
    [0, 1, 2, 3, 4, 5].map (decodeTableWord 8) =
      [some .rspOk, some .encTake, some .serPut, some .desTake, some .expPut, some .ctlResp] := by decide

/-! ### Single steps -/

/-- T1: ENCODE of length 0 goes to RESP. -/
theorem test_encode_empty :
    nextOf (exec (.encode 0) (idleWith [tok .encode 0] [])) = some { State.reset with st := .resp } := by decide

/-- Z2, the command: ENCODE of length 3 starts scanning; the next command waits. -/
theorem test_encode_starts :
    nextOf (exec (.encode 3) (idleWith [tok .encode 3, tok .decode 0] [])) =
      some { scanFresh 3 [] with cmd := [tok .decode 0] } := by decide

/-- T5, lengths 1 and 2: DECODE is refused, the bytes stay. -/
theorem test_decode_malformed :
    nextOf (exec (.decode 1) (idleWith [tok .decode 1] [0x00])) =
        some { State.reset with st := .resp, status := .malformedInput, din := [0x00] } ∧
      nextOf (exec (.decode 2) (idleWith [tok .decode 2] [0x00, 0x03])) =
        some { State.reset with st := .resp, status := .malformedInput, din := [0x00, 0x03] } := by decide

/-- T6, length 3. -/
theorem test_decode_starts :
    nextOf (exec (.decode 3) (idleWith [tok .decode 3] [])) = some (fetchWith 3 .high 0 0 []) := by decide

/-- P1, event 5: case C. -/
theorem test_encTake_closes :
    nextOf (exec .encTake (scanWith 1 3 0x41 [0x42])) =
      some { emitWith 0 3 0x41 .high 1 0x42 with din := [] } := by decide

/-- E15: the 65536th equal byte closes the full run; the count does not wrap. -/
theorem test_encTake_full :
    nextOf (exec .encTake (scanWith 1 65535 0xFF [0xFF])) = some (emitWith 0 65535 0xFF .high 1 0xFF) := by decide

/-- S5: the high count byte of 258 goes out first. -/
theorem test_serPut_high :
    nextOf (exec .serPut (emitLast 258 0x10 .high)) = some { emitLast 258 0x10 .low with dout := [0x01] } := by decide

/-- P1, event 8: the third byte, then the flush. -/
theorem test_serPut_flush :
    nextOf (exec .serPut (emitWith 0 3 0x41 .value 1 0x42)) =
      some { emitLast 1 0x42 .high with runValue := 0x42, runCount := 1, dout := [0x41] } := by decide

/-- S5, second byte: the count is `{DES_HI, byte}`. -/
theorem test_desTake_low :
    nextOf (exec .desTake (fetchWith 2 .low 0x01 0 [0x02])) = some (fetchWith 1 .value 0x01 258 []) := by decide

/-- DV9: a last record of count 0 goes to RESP. -/
theorem test_desTake_zero_count :
    nextOf (exec .desTake (fetchWith 1 .value 0 0 [0x41])) =
      some { State.reset with st := .resp, expValue := 0x41 } := by decide

/-- P2, event 5. -/
theorem test_expPut_more :
    nextOf (exec .expPut (expandWith 3 3 0x41)) = some { expandWith 3 2 0x41 with dout := [0x41] } := by decide

/-- The last copy of the last record goes to RESP. -/
theorem test_expPut_last :
    nextOf (exec .expPut (expandWith 0 1 0x42)) =
      some { State.reset with st := .resp, expValue := 0x42, dout := [0x42] } := by decide

/-- The response with status 1; STATUS keeps it. -/
theorem test_ctlResp :
    nextOf (exec .ctlResp (respWith .malformedInput)) =
      some { State.reset with status := .malformedInput, rsp := [.malformedInput] } := by decide

theorem test_rspOk : nextOf (exec .rspOk (respWith .ok)) = some { State.reset with rsp := [.ok] } := by decide

theorem test_rspMalformed :
    nextOf (exec .rspMalformed (respWith .malformedInput)) = nextOf (exec .ctlResp (respWith .malformedInput)) := by
  decide

/-- S5 read from right to left. -/
theorem test_record_unpacked :
    nextOf (exec (.record 258 0x10) (fetchWith 3 .high 0 0 [0x01, 0x02, 0x10])) =
      some { expandWith 0 258 0x10 with desHi := 0x01 } := by decide

/-- S5 read from left to right. -/
theorem test_record_packed :
    nextOf (exec (.record 258 0x10) (emitLast 258 0x10 .high)) =
      some { emitLast 258 0x10 .high with st := .resp, dout := [0x01, 0x02, 0x10] } := by decide

/-- Z4: reset clears the registers and keeps the byte already put. -/
theorem test_step_reset :
    nextOf (step { emitWith 1 2 0x41 .low 1 0x42 with dout := [0x00], sched := [Edge.resetting] }) =
      some { State.reset with dout := [0x00], cmdHeld := true, dinHeld := true } := by decide

/-- Z5: a consumer that is not ready holds the block. -/
theorem test_step_waits :
    nextOf (step { expandWith 0 3 0x41 with rest := Edge.shy }) = some { expandWith 0 3 0x41 with rest := Edge.shy } := by
  decide

/-- Z6: a second command waits in RESP, on offer; the step is the response. -/
theorem test_step_resp_first :
    nextOf (step { respWith .ok with cmd := [tok .encode 1] }) =
      some { State.reset with cmd := [tok .encode 1], rsp := [.ok], cmdHeld := true, dinHeld := true } := by decide

/-- R42: a host that has raised `cmd_valid` keeps it, so the command is taken at an edge at which nobody does
anything new. -/
theorem test_step_held_command :
    nextOf (step { idleWith [tok .decode 3] [] with cmdHeld := true, rest := Edge.shy }) =
      some { fetchWith 3 .high 0 0 [] with rest := Edge.shy } := by decide

/-- Z1: the outputs after reset. -/
theorem test_outputs_after_reset :
    State.reset.cmdReady = true ∧ State.reset.dinReady = false ∧ State.reset.doutValid = false ∧
      State.reset.rspValid = false := by decide

/-! ### An operation of the table as the first one after reset (log 18) -/

theorem test_placed_decode :
    nextOf (step (State.reset.withFetchWord 33 0x100000003)) =
      some { fetchWith 3 .high 0 0 [] with dinHeld := true } := by decide

/-- A word with a bit above `{op, len}` is no command, so nothing is placed. -/
theorem test_placed_nothing : State.reset.withFetchWord 33 0x200000000 = State.reset := by decide

theorem test_placed_expPut :
    nextOf (step (State.reset.withFetchWord 8 4)) =
      some { State.reset with st := .resp, dout := [0x00], cmdHeld := true, dinHeld := true } := by decide

/-- The step is the record's first beat (log 10). -/
theorem test_placed_record :
    nextOf (step (State.reset.withFetchWord 24 0x010210)) =
      some { fetchWith 2 .low 0x01 0 [0x02, 0x10] with cmdHeld := true } := by decide

/-! ### The function level -/

/-- E3, scenario A. -/
theorem test_codec_scenario_a :
    Codec.encode [0x41, 0x41, 0x41, 0x42] = [0x00, 0x03, 0x41, 0x00, 0x01, 0x42] ∧
      Codec.decode [0x00, 0x03, 0x41, 0x00, 0x01, 0x42] = .ok [0x41, 0x41, 0x41, 0x42] := by decide

/-- E1 and DV1, scenario B. -/
theorem test_codec_empty : Codec.encode [] = [] ∧ Codec.decode [] = .ok [] := by decide

/-- E16, scenario C corrected, and E14: no record of count 0 after a full one. -/
theorem test_codec_split :
    Codec.split 70000 0xFF = [⟨65535, 0xFF⟩, ⟨4465, 0xFF⟩] ∧ Codec.split 65535 0xFF = [⟨65535, 0xFF⟩] := by decide

/-- DV13 and DV8. -/
theorem test_codec_decode :
    Codec.decode [0x00, 0x03, 0x41, 0x00] = .error .malformedInput ∧
      Codec.decode [0x00, 0x00, 0x41, 0x00, 0x02, 0x42] = .ok [0x42, 0x42] := by decide

/-- L2, L5, L6, L7. -/
theorem test_codec_canonical :
    Codec.canonical [0xFF, 0xFF, 0x41, 0x00, 0x01, 0x41] = true ∧
      Codec.canonical [0xFF, 0xFE, 0x41, 0x00, 0x01, 0x41] = false ∧
      Codec.canonical [0x00, 0x01, 0x41, 0xFF, 0xFF, 0x41] = false ∧ Codec.canonical [0x00, 0x00, 0x41] = false := by
  decide

/-- A script line and its result (R71, R73). -/
theorem test_script_line :
    (ScriptLine.encode [0x41]).load State.reset = idleWith [tok .encode 1] [0x41] ∧
      (ScriptLine.encode [0x41]).result = some (.ok, [0x00, 0x01, 0x41]) ∧
      (ScriptLine.decode [0x00]).result = some (.malformedInput, []) ∧
      (ScriptLine.decode [0x00]).beats = [] := by decide

/-! ### States that meet the hypotheses of the statements, clause by clause -/

theorem test_meets_EveryOperationDecodesFromItsWord :
    (Instr.decode (2 ^ Config.lenWidth - 1)).wf = true ∧ (Instr.record 65535 0xFF).wf = true := by
  simp [Instr.wf, Instr.fits]

theorem test_meets_DecodedWordIsTheOperationsWord :
    decodeWord .cmd 0 = .ok (.encode 0) ∧ decodeWord .record 0xFFFFFF = .ok (.record 65535 0xFF) ∧
      decodeWord .step 5 = .ok .ctlResp := by
  refine ⟨?_, by decide, by decide⟩
  simp [decodeWord, decodeWordAt, decodeCmd]

theorem test_meets_StepCodesAndSubIndices :
    (idleWith [tok .decode 3] []).st = .idle ∧ (idleWith [tok .decode 3] []).cmd = [tok .decode 3] ∧
      ((0b111 : Nat) = 0b110 ∨ (0b111 : Nat) = 0b111) ∧ ∀ k : RecIdx, k.toNat = 0 ∨ k.toNat = 1 ∨ k.toNat = 2 :=
  ⟨by decide, by decide, by decide, fun k => by cases k <;> decide⟩

theorem test_meets_PackAndUnpackAreBigEndian :
    pack ⟨258, 0x10⟩ = pack ⟨258, 0x10⟩ ∧ (⟨1, 0x42⟩ : Record) ∈ Codec.encRuns [0x41, 0x42] := by decide

theorem test_meets_SerializeAndDeserializeAreInverse :
    ([0x00, 0x00, 0x41] : List Byte).length % 3 = 0 := by decide

theorem test_meets_AfterResetOnlyACommandIsTaken :
    (idleWith [tok .encode 1] [0x41]).ResetValues ∧ (idleWith [tok .encode 1] [0x41]).edge.rst = false ∧
      (idleWith [tok .encode 1] [0x41]).cmd = tok .encode 1 :: [] ∧
      (idleWith [tok .encode 1] [0x41]).edge.cmdOffer = true ∧ ∃ t, step (idleWith [tok .encode 1] [0x41]) = .next t :=
  ⟨by unfold State.ResetValues; decide, rfl, rfl, rfl, _, rfl⟩

theorem test_meets_AfterResetOnlyACommandIsTaken_held :
    ({ idleWith [tok .encode 1] [] with cmdHeld := true, rest := Edge.shy } : State).ResetValues ∧
      ({ idleWith [tok .encode 1] [] with cmdHeld := true, rest := Edge.shy } : State).edge.rst = false :=
  ⟨by unfold State.ResetValues; decide, rfl⟩

theorem test_meets_AfterResetOnlyACommandIsTaken_waiting :
    (idleWith [] [0x41]).ResetValues ∧ (idleWith [] [0x41]).edge.rst = false ∧
      ∃ t, step (idleWith [] [0x41]) = .next t :=
  ⟨by unfold State.ResetValues; decide, by decide, _, rfl⟩

theorem test_meets_ResetEdgeFromAnyState :
    ({ expandWith 0 3 0x41 with sched := [Edge.resetting] } : State).edge.rst = true := by decide

theorem test_meets_ResetEdgeFromAnyState_held :
    ∀ s : State, s = { expandWith 3 3 0x41 with cmd := [tok .encode 1], din := [0x00], sched := [Edge.resetting] } →
      s.edge.rst = true ∧ s.edge.cmdWithdraw = 0 ∧ s.edge.dinWithdraw = 0 ∧ s.cmdValid s.edge = true ∧
      s.dinValid s.edge = true := by
  rintro s rfl
  decide

theorem test_meets_OutputsAndOneTokenPerEdge :
    (emitLast 1 0x41 .value).st = .encEmit ∧ (expandWith 0 1 0x41).st = .decExpand ∧ (respWith .ok).st = .resp ∧
      (respWith .ok).SameRegs { respWith .ok with din := [0x00] } ∧ (respWith .ok).edge.rst = false ∧
      ∃ t, step (respWith .ok) = .next t :=
  ⟨by decide, by decide, by decide, by unfold State.SameRegs; decide, by decide, _, rfl⟩

theorem test_meets_OperationsKeepTheChannelLaw :
    ∃ t, exec .encTake (scanFresh 1 [0xFF]) = .next t := ⟨_, rfl⟩

theorem test_meets_OperationsKeepTheChannelLaw_offered :
    ∀ s : State, s = { emitLast 1 0x41 .high with
        cmd := [tok .encode 1], din := [0x00], rest := { Edge.shy with cmdOffer := true, dinOffer := true } } →
      s.edge.rst = false ∧ s.cmdValid s.edge = true ∧ s.dinValid s.edge = true ∧ s.doutValid = true ∧
      ∃ t, step s = .next t ∧ t.cmd = s.cmd ∧ t.din = s.din ∧ t.dout = s.dout := by
  rintro s rfl
  exact ⟨by decide, by decide, by decide, by decide, _, rfl, rfl, rfl, rfl⟩

theorem test_meets_OperationsKeepTheChannelLaw_response :
    ({ respWith .ok with rest := Edge.shy } : State).rspValid = true ∧
      ∃ t, step { respWith .ok with rest := Edge.shy } = .next t ∧ t.rsp = [] :=
  ⟨by decide, _, rfl, rfl⟩

theorem test_meets_StepRunsTheDecodedOperation :
    (scanFresh 1 [0xFF]).edge.rst = false ∧ (scanFresh 1 [0xFF]).st ≠ .idle ∧
      (scanFresh 1 [0xFF]).handshake (scanFresh 1 [0xFF]).edge = true ∧
      decodeWord .step (scanFresh 1 [0xFF]).st.code = .ok .encTake := by decide

/-- Every length there is. -/
theorem test_meets_StepRunsTheDecodedOperation_command :
    ∀ l : Len, (idleWith [⟨.decode, l⟩] []).edge.rst = false ∧ (idleWith [⟨.decode, l⟩] []).st = .idle ∧
      (idleWith [⟨.decode, l⟩] []).cmd = ⟨.decode, l⟩ :: [] ∧ (idleWith [⟨.decode, l⟩] []).edge.cmdOffer = true ∧
      decodeWord .cmd (CmdToken.word ⟨.decode, l⟩) = .ok (.decode l.toNat) := by
  intro l
  refine ⟨rfl, rfl, rfl, rfl, ?_⟩
  have h := l.isLt
  have hq : (2 ^ Config.lenWidth + l.toNat) / 2 ^ Config.lenWidth = 1 := by
    rw [Nat.add_div_left _ (Nat.two_pow_pos _), Nat.div_eq_of_lt h]
  have hm : (2 ^ Config.lenWidth + l.toNat) % 2 ^ Config.lenWidth = l.toNat := by
    rw [Nat.add_mod_left, Nat.mod_eq_of_lt h]
  simp only [decodeWord, decodeWordAt, decodeCmd, CmdToken.word, Op.bit, Nat.one_mul, hq, hm]

theorem test_meets_StepRunsTheDecodedOperation_held :
    ({ idleWith [tok .encode 0] [] with cmdHeld := true, rest := Edge.shy } : State).cmdHeld = true ∧
      decodeWord .cmd (CmdToken.word (tok .encode 0)) = .ok (.encode 0) := by
  refine ⟨rfl, ?_⟩
  simp [decodeWord, decodeWordAt, decodeCmd, CmdToken.word, Op.bit, tok, short]

theorem test_meets_WaitingMovesNothing :
    State.reset.Waiting State.reset.edge := by
  unfold State.Waiting
  decide

/-- Z2. -/
theorem test_meets_WaitingMovesNothing_stuck :
    (scanFresh 1 []).sched = [] ∧ (scanFresh 1 []).Stuck (scanFresh 1 []).rest := by
  unfold State.Stuck State.Waiting
  decide

theorem test_meets_WillingPartnerMeansProgress :
    (scanFresh 1 [0xFF]).Inv ∧ (scanFresh 1 [0xFF]).edge.rst = false ∧
      (scanFresh 1 [0xFF]).handshake (scanFresh 1 [0xFF]).edge = true := by decide

theorem test_meets_EveryStepKeepsTheInvariant :
    (fetchWith 1 .value 0 1 [0x41]).Inv ∧ (∃ t, exec .desTake (fetchWith 1 .value 0 1 [0x41]) = .next t) ∧
      ∃ t, step (fetchWith 1 .value 0 1 [0x41]) = .next t := ⟨by decide, ⟨_, rfl⟩, _, rfl⟩

theorem test_meets_RemainingCountFitsItsWidth :
    (Instr.encode (2 ^ Config.lenWidth)).wf = false ∧ (Instr.decode (2 ^ Config.lenWidth + 2)).wf = false ∧
      (idleWith [⟨.encode, BitVec.allOnes _⟩] []).LengthsFit ∧
      ∃ t, step (idleWith [⟨.encode, BitVec.allOnes _⟩] []) = .next t := by
  refine ⟨by simp [Instr.wf, Instr.fits], by simp [Instr.wf, Instr.fits], ⟨BitVec.isLt _, fun _ _ => BitVec.isLt _⟩, ?_⟩
  cases h : step (idleWith [⟨.encode, BitVec.allOnes _⟩] []) with
  | next t => exact ⟨t, rfl⟩
  | fault r => cases r
  | refused r => simp [step, clockEdge, State.fires, idleWith, State.reset, State.edge, Edge.willing, State.handshake,
      State.cmdValid, State.cmdReady, State.selected, Phase.code, decodeStep, CmdToken.instr, exec, execEncode,
      State.offeredLen, State.tick] at h

theorem test_meets_ScanWithoutRunOnlyAfterEncode :
    (idleWith [tok .encode 1] []).Inv ∧ ∃ t, step (idleWith [tok .encode 1] []) = .next t ∧ t.st = .encScan ∧
      t.runValid = false := ⟨by decide, _, rfl, rfl, rfl⟩

theorem test_meets_ScanWithoutRunOnlyAfterEncode_waiting :
    (scanFresh 1 []).Inv ∧ ∃ t, step (scanFresh 1 []) = .next t ∧ t.st = .encScan ∧ t.runValid = false :=
  ⟨by decide, _, rfl, rfl, rfl⟩

theorem test_meets_EncodeCommandStarts :
    ∀ len : Len, (idleWith [⟨.encode, len⟩] []).st = .idle ∧
      (idleWith [⟨.encode, len⟩] []).cmd = ⟨.encode, len⟩ :: [] := fun _ => ⟨rfl, rfl⟩

theorem test_meets_DecodeCommandStartsOrRaises :
    ∀ len : Len, (idleWith [⟨.decode, len⟩] []).st = .idle ∧
      (idleWith [⟨.decode, len⟩] []).cmd = ⟨.decode, len⟩ :: [] := fun _ => ⟨rfl, rfl⟩

theorem test_meets_EncTakeOpensExtendsOrCloses :
    ∀ s : State, s = scanFresh 1 [0x41] ∨ s = scanWith 1 65534 0x41 [0x41] ∨ s = scanWith 1 65535 0x41 [0x41] ∨
        s = scanWith 1 1 0x42 [0x41] → s.st = .encScan ∧ 0 < s.rem.toNat ∧ s.din = 0x41 :: [] := by
  rintro s (rfl | rfl | rfl | rfl) <;> decide

theorem test_meets_WhatNextProcedures :
    0 < (scanWith 1 1 0x41 []).rem.toNat ∧ (scanWith 0 1 0x41 []).rem = 0 ∧ (scanWith 0 1 0x41 []).runValid = true ∧
      (emitLast 1 0x41 .high).rem = 0 ∧ (emitLast 1 0x41 .high).runValid = false := by decide

theorem test_meets_SerPutPutsTheThreeBytes :
    ∀ k : RecIdx, (emitLast 258 0x10 k).st = .encEmit := fun _ => rfl

theorem test_meets_DesTakeUnpacksTheRecord :
    ∀ (k : RecIdx) (c : Count), (fetchWith 1 k 0x01 c [0x10]).st = .decFetch ∧
      0 < (fetchWith 1 k 0x01 c [0x10]).rem.toNat ∧ (fetchWith 1 k 0x01 c [0x10]).din = 0x10 :: [] :=
  fun _ _ => ⟨rfl, Nat.one_pos, rfl⟩

theorem test_meets_ExpPutPutsOneCopy :
    ∀ c : Count, c = 1 ∨ c = 65535 → (expandWith 0 c 0x41).st = .decExpand ∧ 1 ≤ (expandWith 0 c 0x41).expCount.toNat := by
  rintro c (rfl | rfl) <;> decide

theorem test_meets_CtlRespPutsStatusAndReturns :
    ∀ v : Status, (respWith v).st = .resp := fun _ => rfl

theorem test_meets_ResponseTokensAreTheResponseStep :
    (respWith .ok).st = .resp ∧ (respWith .ok).status = .ok ∧ (respWith .malformedInput).st = .resp ∧
      (respWith .malformedInput).status = .malformedInput := by decide

theorem test_meets_RecordIsUnpackedOrPacked :
    (fetchWith 3 .high 0 0 [0x00, 0x00, 0x41]).st = .decFetch ∧
      (fetchWith 3 .high 0 0 [0x00, 0x00, 0x41]).desIdx = .high ∧ 3 ≤ (fetchWith 3 .high 0 0 [0x00, 0x00, 0x41]).rem.toNat ∧
      (fetchWith 3 .high 0 0 [0x00, 0x00, 0x41]).din = pack ⟨0, 0x41⟩ ++ [] := by decide

theorem test_meets_RecordIsUnpackedOrPacked_packed :
    (emitLast 65535 0xFF .high).st = .encEmit ∧ (emitLast 65535 0xFF .high).serIdx = .high ∧
      (emitLast 65535 0xFF .high).serCount = 65535 ∧ (emitLast 65535 0xFF .high).serValue = 0xFF := by decide

theorem test_meets_RecordIsThreeSteps :
    (fetchWith 3 .high 0 0 [0x00, 0x01, 0x41]).Prompt ∧
      (fetchWith 3 .high 0 0 [0x00, 0x01, 0x41]).offersRecord ⟨1, 0x41⟩ = true ∧ (emitLast 1 0x41 .high).Prompt ∧
      (emitLast 1 0x41 .high).holdsRecord ⟨1, 0x41⟩ = true :=
  ⟨⟨rfl, rfl⟩, by decide, ⟨rfl, rfl⟩, by decide⟩

theorem test_meets_OperationNotOnOfferWaits :
    (∀ l : Len, l.toNat = 0 → State.reset.cmd.head? ≠ some ⟨.encode, l⟩) ∧
      (∀ l : Len, l.toNat = 0 → State.reset.cmd.head? ≠ some ⟨.decode, l⟩) ∧
      (scanFresh 0 [0x41]).rem = 0 ∧ (scanFresh 1 []).din = [] ∧ State.reset.st ≠ .encEmit ∧
      (fetchWith 0 .high 0 0 [0x41]).rem = 0 ∧ (expandWith 0 0 0x41).expCount = 0 ∧ State.reset.st ≠ .resp ∧
      (respWith .malformedInput).status ≠ .ok ∧ (respWith .ok).status ≠ .malformedInput ∧
      State.reset.st ≠ .decFetch :=
  ⟨fun _ _ h => (by cases h), fun _ _ h => (by cases h), by decide, by decide, by decide, by decide, by decide,
    by decide, by decide, by decide, by decide⟩

/-- Off a boundary, too few bytes to come, another record ahead, part of the record put, another record in the latch. -/
theorem test_meets_OperationNotOnOfferWaits_record :
    ∀ s : State, s = fetchWith 2 .low 0x00 0 [0x00, 0x01, 0x41] ∨ s = fetchWith 2 .high 0 0 [0x00, 0x01, 0x41] ∨
        s = fetchWith 3 .high 0 0 [0x00, 0x02, 0x41] ∨ s = emitLast 1 0x41 .low ∨ s = emitLast 2 0x41 .high →
      s.offersRecord ⟨1, 0x41⟩ = false ∧ s.holdsRecord ⟨1, 0x41⟩ = false := by
  rintro s (rfl | rfl | rfl | rfl | rfl) <;> decide

theorem test_meets_CommandFrame :
    (∃ t, exec (.encode 1) (idleWith [tok .encode 1] [0x41]) = .next t) ∧
      ∃ t, exec (.decode 2) (idleWith [tok .decode 2] [0x41]) = .next t := ⟨⟨_, rfl⟩, _, rfl⟩

theorem test_meets_EncTakeFrame :
    ∃ t, exec .encTake (scanWith 2 3 0x41 [0x41]) = .next t ∧ t.st ≠ .encEmit :=
  ⟨_, rfl, by decide⟩

theorem test_meets_SerPutFrame :
    (∃ t, exec .serPut (emitWith 0 3 0x41 .value 1 0x42) = .next t) ∧ (emitLast 3 0x41 .value).runValid = false ∧
      ∃ t, exec .serPut (emitLast 3 0x41 .value) = .next t := ⟨⟨_, rfl⟩, rfl, _, rfl⟩

theorem test_meets_DecoderFrame :
    (∃ t, exec .desTake (fetchWith 1 .value 0 1 [0x41]) = .next t) ∧
      (∃ t, exec .desTake (fetchWith 3 .high 0 0 [0x41]) = .next t) ∧ ∃ t, exec .expPut (expandWith 0 1 0x41) = .next t :=
  ⟨⟨_, rfl⟩, ⟨_, rfl⟩, _, rfl⟩

theorem test_meets_ResponseFrame :
    (∃ t, exec .ctlResp (respWith .ok) = .next t) ∧ (∃ t, exec .rspOk (respWith .ok) = .next t) ∧
      ∃ t, exec .rspMalformed (respWith .malformedInput) = .next t := ⟨⟨_, rfl⟩, ⟨_, rfl⟩, _, rfl⟩

theorem test_meets_RecordFrame :
    (∃ t, exec (.record 0 0x41) (fetchWith 3 .high 0 0 [0x00, 0x00, 0x41]) = .next t) ∧
      ∃ t, exec (.record 1 0x41) (emitLast 1 0x41 .high) = .next t := ⟨⟨_, rfl⟩, _, rfl⟩

theorem test_meets_CountersNeverWrap :
    ∀ s : State, s = scanFresh 1 [0x41] ∨ s = scanWith 1 65534 0x41 [0x41] ∨ s = scanWith 1 65535 0x41 [0x41] →
      ∃ t, exec .encTake s = .next t ∧ t ≠ s := by
  rintro s (rfl | rfl | rfl) <;> exact ⟨_, rfl, by decide⟩

theorem test_meets_CountersNeverWrap_decoder :
    (∃ t, exec .desTake (fetchWith 2 .low 0xFF 0 [0xFF]) = .next t ∧ t ≠ fetchWith 2 .low 0xFF 0 [0xFF]) ∧
      ∃ t, exec .expPut (expandWith 0 1 0x41) = .next t ∧ t ≠ expandWith 0 1 0x41 :=
  ⟨⟨_, rfl, by decide⟩, _, rfl, by decide⟩

theorem test_meets_CountersNeverWrap_completes :
    ((scanWith 1 65534 0x41 [0x41]).st = .encScan ∧ 0 < (scanWith 1 65534 0x41 [0x41]).rem.toNat ∧
        (scanWith 1 65534 0x41 [0x41]).din = 0x41 :: []) ∧
      ((fetchWith 1 .value 0 0 [0x41]).st = .decFetch ∧ 0 < (fetchWith 1 .value 0 0 [0x41]).rem.toNat ∧
        (fetchWith 1 .value 0 0 [0x41]).din = 0x41 :: []) ∧
      (expandWith 0 1 0x41).st = .decExpand ∧ 1 ≤ (expandWith 0 1 0x41).expCount.toNat := by decide

theorem test_meets_StatusIsWrittenByCommandsOnly :
    ∃ t, exec (.decode 1) (idleWith [tok .decode 1] []) = .next t ∧ (idleWith [tok .decode 1] []).TookCmd t (tok .decode 1) ∧
      (idleWith [tok .decode 1] []).st = .idle ∧ (idleWith [tok .decode 1] []).cmd.head? = some (tok .decode 1) :=
  ⟨_, rfl, by unfold State.TookCmd; decide, rfl, rfl⟩

theorem test_meets_StatusIsWrittenByCommandsOnly_response :
    ∃ t, exec .ctlResp (respWith .malformedInput) = .next t ∧ t.cmd = (respWith .malformedInput).cmd ∧
      (respWith .malformedInput).PutRsp t .malformedInput :=
  ⟨_, rfl, rfl, by unfold State.PutRsp; decide⟩

theorem test_meets_StatusIsWrittenByCommandsOnly_data :
    ∃ t, exec .encTake (scanFresh 1 [0x41]) = .next t := ⟨_, rfl⟩

theorem test_meets_OnlyMalformedDecodeRaises :
    ∃ t, exec (.decode 2) (idleWith [tok .decode 2] []) = .next t ∧ (idleWith [tok .decode 2] []).status = .ok ∧
      t.status = .malformedInput := ⟨_, rfl, rfl, by decide⟩

theorem test_meets_OnlyMalformedDecodeRaises_return :
    (respWith .malformedInput).st = .resp ∧ (respWith .malformedInput).status = .malformedInput ∧
      (respWith .malformedInput).edge.rst = false ∧ ∃ t, step (respWith .malformedInput) = .next t :=
  ⟨rfl, rfl, rfl, _, rfl⟩

theorem test_meets_EveryStepFollowsTheTransitionTable :
    (∃ t, step (emitLast 1 0x41 .value) = .next t) ∧
      ∃ t, step { emitLast 1 0x41 .value with sched := [Edge.resetting] } = .next t := ⟨⟨_, rfl⟩, _, rfl⟩

theorem test_meets_SplitCoversTheRun :
    (1 : Nat) ≤ 1 ∧ (1 : Nat) ≤ 65535 ∧ (1 : Nat) ≤ 65536 := by decide

theorem test_meets_DecodeFailsExactlyOnMalformedLength :
    ([0x00] : List Byte).length % 3 ≠ 0 ∧ ([0x00, 0x03] : List Byte).length % 3 ≠ 0 ∧
      ([0x00, 0x00, 0x41] : List Byte).length % 3 = 0 := by decide

theorem test_meets_EmittedCountsAreInRange :
    (⟨1, 0x42⟩ : Record) ∈ Codec.encRuns [0x41, 0x42] ∧ (emitLast 65535 0xFF .high).Inv ∧
      (emitLast 65535 0xFF .high).st = .encEmit := by decide

theorem test_meets_CanonicalStreamsAreTheEncoded :
    1 < (Codec.encRuns [0x41, 0x42]).length ∧ Codec.encRuns [0x41] = [⟨1, 0x41⟩] ∧
      Codec.canonical [0xFF, 0xFF, 0x41, 0x00, 0x01, 0x41] = true := by decide

/-- A buffer of one repeated byte is one maximal run (R90). -/
theorem mruns_replicate (n : Nat) (v : Byte) : Codec.mruns (List.replicate (n + 1) v) = [(n + 1, v)] := by
  induction n with
  | zero => rfl
  | succ n ih => rw [List.replicate_succ, Codec.mruns, ih]; simp

/-- E15's form: two neighbours of one value. -/
theorem test_meets_CanonicalStreamsAreTheEncoded_equal_neighbours :
    Codec.encRuns (List.replicate 65536 0x41) = [⟨65535, 0x41⟩, ⟨1, 0x41⟩] := by
  rw [Codec.encRuns, mruns_replicate]
  decide

theorem test_meets_ConcatenationAtBoundaries :
    Codec.decode [0x00, 0x01, 0x41] = .ok [0x41] ∧ Codec.decode [0x00, 0x00, 0x41] = .ok [] ∧
      ([0x41] : List Byte).getLast? ≠ ([0x42] : List Byte).head? := by decide

theorem test_meets_SizeBounds :
    (0 + 1 < ([0x41, 0x42] : List Byte).length) ∧ Codec.decode [0x00, 0x02, 0x41] = .ok [0x41, 0x41] ∧
      Codec.deserialize [0x00, 0x02, 0x41] = some [⟨2, 0x41⟩] := by decide

theorem test_meets_EncoderTracksTheFold :
    ∃ t, 0 < (short 1).toNat ∧ exec (.encode (short 1).toNat) (idleWith [tok .encode 1] [0x41]) = .next t ∧
      (idleWith [tok .encode 1] [0x41]).TookCmd t (tok .encode 1) :=
  ⟨_, by decide, rfl, by unfold State.TookCmd; decide⟩

theorem test_meets_EncoderTracksTheFold_step :
    (scanWith 1 1 0x41 [0x42]).Inv ∧ (scanWith 1 1 0x41 [0x42]).st = .encScan ∧
      (scanWith 1 1 0x41 [0x42]).EncodesSoFar [] [0x41] ∧ (scanWith 1 1 0x41 [0x42]).edge.rst = false ∧
      ∃ t, step (scanWith 1 1 0x41 [0x42]) = .next t :=
  ⟨by decide, rfl, ⟨fun _ h => absurd h (by decide), [], by decide, by decide⟩, rfl, _, rfl⟩

theorem test_meets_EncoderTracksTheFold_response :
    ({ respWith .ok with dout := [0x00, 0x01, 0x41] } : State).Inv ∧
      ({ respWith .ok with dout := [0x00, 0x01, 0x41] } : State).EncodesSoFar [] [0x41] :=
  ⟨by decide, fun h => absurd h (by decide), [⟨1, 0x41⟩], by decide, by decide⟩

theorem test_meets_DecoderTracksTheExpansion :
    ∃ t, 0 < (short 3).toNat ∧ (short 3).toNat % 3 = 0 ∧
      exec (.decode (short 3).toNat) (idleWith [tok .decode 3] []) = .next t ∧
      (idleWith [tok .decode 3] []).TookCmd t (tok .decode 3) :=
  ⟨_, by decide, by decide, rfl, by unfold State.TookCmd; decide⟩

theorem test_meets_DecoderTracksTheExpansion_step :
    ({ expandWith 0 1 0x41 with dout := [0x41] } : State).Inv ∧
      ({ expandWith 0 1 0x41 with dout := [0x41] } : State).DecodesSoFar [] [0x00, 0x02, 0x41] ∧
      ∃ t, step { expandWith 0 1 0x41 with dout := [0x41] } = .next t :=
  ⟨by decide, ⟨[⟨2, 0x41⟩], [], by decide, by decide, fun h => absurd h (by decide), fun h => absurd h (by decide),
    [], ⟨2, 0x41⟩, by decide, by decide, by decide, by decide⟩, _, rfl⟩

theorem test_meets_DecoderTracksTheExpansion_fetch :
    (fetchWith 1 .value 0 2 [0x41]).Inv ∧ (fetchWith 1 .value 0 2 [0x41]).DecodesSoFar [] [0x00, 0x02] ∧
      ∃ t, step (fetchWith 1 .value 0 2 [0x41]) = .next t :=
  ⟨by decide, ⟨[], [0x00, 0x02], by decide, by decide, fun _ => by decide, fun _ => ⟨0x00, 0x02, by decide, by decide⟩,
    by rw [if_neg (by decide)]; decide⟩, _, rfl⟩

theorem test_meets_DecoderTracksTheExpansion_response :
    ({ respWith .ok with dout := [0x41, 0x41] } : State).Inv ∧
      ({ respWith .ok with dout := [0x41, 0x41] } : State).DecodesSoFar [] [0x00, 0x02, 0x41] :=
  ⟨by decide, [⟨2, 0x41⟩], [], by decide, by decide, fun h => absurd h (by decide), fun h => absurd h (by decide),
    by rw [if_neg (by decide)]; decide⟩

theorem test_meets_EncodeTransactionRefinesEncode :
    (idleWith [tok .encode 0] []).st = .idle ∧ (idleWith [tok .encode 0] []).Prompt ∧
      (idleWith [tok .encode 2] [0x41, 0x42, 0x43]).st = .idle ∧ (idleWith [tok .encode 2] [0x41, 0x42, 0x43]).Prompt ∧
      (idleWith [tok .encode 2] [0x41, 0x42, 0x43]).cmd = tok .encode 2 :: [] ∧
      (short 2).toNat = ([0x41, 0x42] : List Byte).length ∧
      (idleWith [tok .encode 2] [0x41, 0x42, 0x43]).din = [0x41, 0x42] ++ [0x43] :=
  ⟨rfl, ⟨rfl, rfl⟩, rfl, ⟨rfl, rfl⟩, by decide, by decide, by decide⟩

theorem test_meets_DecodeTransactionRefinesDecode :
    (idleWith [tok .decode 3] [0x00, 0x02, 0x41]).st = .idle ∧ (idleWith [tok .decode 3] [0x00, 0x02, 0x41]).Prompt ∧
      (idleWith [tok .decode 3] [0x00, 0x02, 0x41]).cmd = tok .decode 3 :: [] ∧
      (short 3).toNat = ([0x00, 0x02, 0x41] : List Byte).length ∧
      (idleWith [tok .decode 3] [0x00, 0x02, 0x41]).din = [0x00, 0x02, 0x41] ++ [] ∧
      Codec.decode [0x00, 0x02, 0x41] = .ok [0x41, 0x41] :=
  ⟨rfl, ⟨rfl, rfl⟩, by decide, by decide, by decide, by decide⟩

theorem test_meets_DecodeTransactionRefinesDecode_malformed :
    (idleWith [tok .decode 2] []).st = .idle ∧ (idleWith [tok .decode 2] []).Prompt ∧
      (idleWith [tok .decode 2] []).cmd = tok .decode 2 :: [] ∧ (short 2).toNat % 3 ≠ 0 :=
  ⟨rfl, ⟨rfl, rfl⟩, rfl, by decide⟩

theorem test_meets_DelaysDoNotChangeTheResult :
    ({ idleWith [tok .encode 1] [0x41] with sched := [Edge.shy, Edge.shy] } : State).Dutiful ∧
      (idleWith [tok .encode 1] [0x41]).cmd = tok .encode 1 :: [] ∧ ([0x41] : List Byte).length = (short 1).toNat ∧
      (idleWith [tok .encode 1] [0x41]).din = (if CmdToken.takesInput (tok .encode 1) then [0x41] else []) ++ [] :=
  ⟨⟨by decide, rfl⟩, rfl, rfl, by decide⟩

theorem test_meets_DelaysDoNotChangeTheResult_malformed :
    ({ idleWith [tok .decode 2] [0x41] with sched := [Edge.shy] } : State).Dutiful ∧
      ([0, 0] : List Byte).length = (short 2).toNat ∧
      (idleWith [tok .decode 2] [0x41]).din = (if CmdToken.takesInput (tok .decode 2) then [0, 0] else []) ++ [0x41] :=
  ⟨⟨by decide, rfl⟩, rfl, by decide⟩

theorem test_meets_RoundTrip :
    (idleWith [tok .encode 1, tok .decode 3] [0x41, 0x00, 0x01, 0x41]).st = .idle ∧
      (idleWith [tok .encode 1, tok .decode 3] [0x41, 0x00, 0x01, 0x41]).Prompt ∧
      (idleWith [tok .encode 1, tok .decode 3] [0x41, 0x00, 0x01, 0x41]).cmd = tok .encode 1 :: tok .decode 3 :: [] ∧
      (short 1).toNat = ([0x41] : List Byte).length ∧ (short 3).toNat = (Codec.encode [0x41]).length ∧
      (idleWith [tok .encode 1, tok .decode 3] [0x41, 0x00, 0x01, 0x41]).din = [0x41] ++ Codec.encode [0x41] ++ [] :=
  ⟨rfl, ⟨rfl, rfl⟩, by decide, by decide, by decide, by decide⟩

theorem test_meets_MeasuresDecrease :
    ∀ s : State, s = emitWith 0 3 0x41 .value 1 0x42 ∨ s = scanFresh 1 [0x41] ∨ s = scanWith 1 3 0x41 [0x42] ∨
        s = scanWith 1 3 0x41 [0x41] ∨ s = fetchWith 1 .value 0 1 [0x41] ∨ s = expandWith 0 1 0x41 →
      s.Inv ∧ s.edge.rst = false ∧ s.handshake s.edge = true ∧ ∃ t, step s = .next t := by
  rintro s (rfl | rfl | rfl | rfl | rfl | rfl) <;> exact ⟨by decide, by decide, by decide, _, rfl⟩

theorem test_meets_MeasuresDecrease_response :
    (respWith .ok).Inv ∧ (respWith .ok).st = .resp := by decide

theorem test_meets_CommandIsReadOnlyWhenTaken :
    (respWith .ok).st ≠ .idle ∧ (respWith .ok).edge.rst = false ∧ ∃ t, step (respWith .ok) = .next t :=
  ⟨by decide, rfl, _, rfl⟩

theorem test_meets_NoLookAhead :
    (scanFresh 1 [0x41]).edge.rst = false ∧ (scanFresh 1 [0x41]).din = 0x41 :: [] ∧
      (∃ t, step (scanFresh 1 [0x41]) = .next t) ∧ (idleWith [] [0x41]).din = 0x41 :: [] ∧
      ∃ t, step (idleWith [] [0x41]) = .next t := ⟨rfl, rfl, ⟨_, rfl⟩, rfl, _, rfl⟩

/-- P4: the registers an ENCODE leaves behind. -/
theorem test_meets_EarlierTransactionsDoNotMatter :
    (idleWith [tok .encode 1] []).SameOutside { idleWith [tok .encode 1] [] with runCount := 3, serCount := 3 } ∧
      (idleWith [tok .encode 1] []).edge.rst = false ∧
      (idleWith [tok .encode 1] []).handshake (idleWith [tok .encode 1] []).edge = true := by
  unfold State.SameOutside
  decide

theorem test_meets_EarlierTransactionsDoNotMatter_step :
    (fetchWith 3 .high 0 0 [0x00]).Inv ∧
      (fetchWith 3 .high 0 0 [0x00]).AgreeLive { fetchWith 3 .high 0 0 [0x00] with serCount := 3, expCount := 7 } :=
  ⟨by decide, rfl, rfl, rfl, rfl, rfl, rfl, fun h => absurd h (by decide), fun h => absurd h (by decide),
    fun h => absurd h (by decide), fun h => absurd h (by decide), fun h => absurd h (by decide), rfl, rfl, rfl, rfl,
    rfl, rfl, rfl, rfl⟩

end Sys2Proof.Tests
end

/-! PROOFS. O38: how `STATUS` is written, copied and read (R23). -/

namespace Sys2Proof.Machine

/-! ### Which operation writes STATUS, and which copies it -/

/-- The `STATUS` that taking a command leaves (R23, R81, R82). -/
def CmdToken.takenStatus (c : CmdToken) : Status :=
  if c.op = .decode ∧ c.len.toNat % 3 ≠ 0 then .malformedInput else .ok

/-- Nothing of transaction control moved: the commands, the responses and `STATUS` are the same. -/
def State.SameControl (s t : State) : Prop := t.cmd = s.cmd ∧ t.rsp = s.rsp ∧ t.status = s.status

theorem State.SameControl.refl (s : State) : s.SameControl s := ⟨rfl, rfl, rfl⟩

theorem State.SameControl.trans {s t u : State} (h : s.SameControl t) (g : t.SameControl u) : s.SameControl u :=
  ⟨g.1.trans h.1, g.2.1.trans h.2.1, g.2.2.trans h.2.2⟩

theorem State.PutDout.sameControl {s t : State} {b : Byte} (h : s.PutDout t b) (hs : t.status = s.status) :
    s.SameControl t := by
  obtain ⟨_, hcmd, _, hrsp⟩ := h
  exact ⟨hcmd, hrsp, hs⟩

theorem State.TookDin.sameControl {s t : State} {b : Byte} (h : s.TookDin t b) (hs : t.status = s.status) :
    s.SameControl t := by
  obtain ⟨_, hcmd, _, hrsp⟩ := h
  exact ⟨hcmd, hrsp, hs⟩

theorem State.serBeat_sameControl (s : State) : s.SameControl s.serBeat :=
  s.serBeat_puts.sameControl s.serBeat_frame.2.1

theorem State.expandBeat_sameControl (s : State) : s.SameControl s.expandBeat :=
  s.expandBeat_puts.sameControl s.expandBeat_frame.2.1

theorem State.popDin_encScanByte_sameControl {s : State} {b : Byte} {d : List Byte} (h : s.din = b :: d) :
    s.SameControl (s.popDin.encScanByte b) :=
  (State.encScanByte_takes h b).sameControl (s.popDin.encScanByte_frame b).1

/-- Needs no byte on `din`, so that the takes of a record can be chained. -/
theorem State.popDin_fetchByte_sameControl (s : State) (b : Byte) : s.SameControl (s.popDin.fetchByte b) := by
  cases hi : s.popDin.desIdx
  · rw [State.fetchByte_high b hi]; exact ⟨rfl, rfl, rfl⟩
  · rw [State.fetchByte_low b hi]; exact ⟨rfl, rfl, rfl⟩
  · rcases State.fetchByte_value b hi with ⟨_, he⟩ | ⟨_, he⟩ <;> rw [he]
    · exact ⟨rfl, rfl, rfl⟩
    · obtain ⟨⟨hcmd, _, _, hrsp⟩, _, hst, _⟩ := ((s.popDin.setExpValue b).setDesIdx .high).decAdvance_frame
      exact ⟨hcmd, hrsp, hst⟩

theorem State.takeRecord_sameControl (s : State) (r : Record) : s.SameControl (s.takeRecord r) :=
  ((s.popDin_fetchByte_sameControl _).trans (State.popDin_fetchByte_sameControl _ _)).trans
    (State.popDin_fetchByte_sameControl _ _)

theorem State.putRecord_sameControl (s : State) : s.SameControl s.putRecord :=
  (s.serBeat_sameControl.trans (State.serBeat_sameControl _)).trans (State.serBeat_sameControl _)

/-- An operation takes a command and writes `STATUS` for it, or leaves transaction control alone, or responds. -/
theorem exec_status_cases {i : Instr} {s t : State} (h : exec i s = .next t) :
    (∃ c : CmdToken, s.cmd = c :: t.cmd ∧ t.rsp = s.rsp ∧ t.status = c.takenStatus) ∨ s.SameControl t ∨
      t = s.respond := by
  cases i with
  | encode len =>
    rcases execEncode_next h with rfl | ⟨_, l, q, rfl, hc, rfl⟩
    · exact .inr (.inl (.refl t))
    · exact .inl ⟨⟨.encode, l⟩, by simp [hc], rfl, by simp [CmdToken.takenStatus]⟩
  | decode len =>
    rcases execDecode_next h with rfl | ⟨_, l, q, rfl, hc, ⟨hm, rfl⟩ | ⟨hm, rfl⟩⟩
    · exact .inr (.inl (.refl t))
    · exact .inl ⟨⟨.decode, l⟩, by simp [hc, State.raiseMalformedInput_eq], rfl,
        by simp [CmdToken.takenStatus, hm, State.raiseMalformedInput_eq]⟩
    · exact .inl ⟨⟨.decode, l⟩, by simp [hc], rfl, by simp [CmdToken.takenStatus, hm]⟩
  | encTake =>
    rcases execEncTake_next h with rfl | ⟨_, _, b, d, hd, rfl⟩
    · exact .inr (.inl (.refl t))
    · exact .inr (.inl (State.popDin_encScanByte_sameControl hd))
  | serPut =>
    rcases execSerPut_next h with rfl | ⟨_, rfl⟩
    · exact .inr (.inl (.refl t))
    · exact .inr (.inl s.serBeat_sameControl)
  | desTake =>
    rcases execDesTake_next h with rfl | ⟨_, _, b, d, _, rfl⟩
    · exact .inr (.inl (.refl t))
    · exact .inr (.inl (s.popDin_fetchByte_sameControl b))
  | expPut =>
    rcases execExpPut_next h with rfl | ⟨_, _, rfl⟩
    · exact .inr (.inl (.refl t))
    · exact .inr (.inl s.expandBeat_sameControl)
  | ctlResp =>
    rcases execCtlResp_next h with rfl | ⟨_, ht⟩
    · exact .inr (.inl (.refl t))
    · exact .inr (.inr ht)
  | record c v =>
    rcases execRecord_next h with rfl | ⟨_, _, _, _, rfl⟩ | ⟨_, _, _, _, rfl⟩
    · exact .inr (.inl (.refl t))
    · exact .inr (.inl (s.takeRecord_sameControl _))
    · exact .inr (.inl s.putRecord_sameControl)
  | rspOk =>
    rcases execRspOk_next h with rfl | ⟨_, _, ht⟩
    · exact .inr (.inl (.refl t))
    · exact .inr (.inr ht)
  | rspMalformed =>
    rcases execRspMalformed_next h with rfl | ⟨_, _, ht⟩
    · exact .inr (.inl (.refl t))
    · exact .inr (.inr ht)

theorem exec_status_of_tookCmd {i : Instr} {s t : State} {c : CmdToken} (h : exec i s = .next t)
    (hc : s.TookCmd t c) : t.status = c.takenStatus := by
  obtain ⟨hcmd, _, _, _⟩ := hc
  rcases exec_status_cases h with ⟨c', hc', _, hst⟩ | ⟨hsame, _, _⟩ | rfl
  · obtain ⟨rfl, _⟩ := List.cons.inj (hcmd.symm.trans hc')
    exact hst
  · simp [hsame] at hcmd
  · simp [State.respond_eq] at hcmd

theorem exec_status_of_cmd_eq {i : Instr} {s t : State} (h : exec i s = .next t) (hc : t.cmd = s.cmd) :
    t.status = s.status := by
  rcases exec_status_cases h with ⟨c, hcmd, _, _⟩ | ⟨_, _, hst⟩ | rfl
  · simp [hc] at hcmd
  · exact hst
  · rfl

theorem exec_putRsp_eq_status {i : Instr} {s t : State} {v : Status} (h : exec i s = .next t)
    (hp : s.PutRsp t v) : v = s.status := by
  obtain ⟨hrsp, _, _, _⟩ := hp
  rcases exec_status_cases h with ⟨_, _, hsame, _⟩ | ⟨_, hsame, _⟩ | rfl
  · simp [hsame] at hrsp
  · simp [hsame] at hrsp
  · simpa [State.respond_eq, eq_comm] using hrsp

/-! ### A command overwrites STATUS whatever it was -/

theorem exec_instr_setStatus {s : State} {c : CmdToken} (v : Status) (hs : s.st = .idle)
    (hc : s.cmd.head? = some c) : exec c.instr (s.setStatus v) = exec c.instr s := by
  obtain ⟨q, hq⟩ := List.head?_eq_some_iff.mp hc
  obtain ⟨op, l⟩ := c
  have ho : s.offeredLen op l.toNat = some l := State.offeredLen_head hs hq
  have hov : (s.setStatus v).offeredLen op l.toNat = some l := ho
  cases op with
  | encode =>
    change execEncode l.toNat (s.setStatus v) = execEncode l.toNat s
    simp only [execEncode, ho, hov]
    rfl
  | decode =>
    change execDecode l.toNat (s.setStatus v) = execDecode l.toNat s
    simp only [execDecode, ho, hov]
    rfl

/-! ### The data steps commute with writing STATUS -/

theorem State.popDin_setStatus (s : State) (v : Status) : (s.setStatus v).popDin = s.popDin.setStatus v := rfl

theorem State.encAdvance_setStatus (s : State) (v : Status) :
    (s.setStatus v).encAdvance = s.encAdvance.setStatus v := by
  rcases s.encAdvance_cases with ⟨h, he⟩ | ⟨h, hv, he⟩ | ⟨h, hv, he⟩ <;> rw [he]
  · exact State.encAdvance_scan (s := s.setStatus v) h
  · exact State.encAdvance_flush (s := s.setStatus v) h hv
  · exact State.encAdvance_done (s := s.setStatus v) h hv

theorem State.decAdvance_setStatus (s : State) (v : Status) :
    (s.setStatus v).decAdvance = s.decAdvance.setStatus v := by
  rcases s.decAdvance_cases with ⟨h, he⟩ | ⟨h, he⟩ <;> rw [he]
  · exact State.decAdvance_fetch (s := s.setStatus v) h
  · exact State.decAdvance_done (s := s.setStatus v) h

theorem State.encScanByte_setStatus (s : State) (b : Byte) (v : Status) :
    (s.setStatus v).encScanByte b = (s.encScanByte b).setStatus v := by
  have hx : (s.setStatus v).extendsRun b = s.extendsRun b := rfl
  cases hv : s.runValid
  · simp only [State.encScanByte, State.setStatus_runValid, hv, if_true]
    exact State.encAdvance_setStatus ((s.newRun b).setRunValid true) v
  · cases he : s.extendsRun b <;> simp only [State.encScanByte, State.setStatus_runValid, hv, hx, he]
    · rfl
    · exact State.encAdvance_setStatus s.extendRun v

theorem State.serBeat_setStatus (s : State) (v : Status) : (s.setStatus v).serBeat = s.serBeat.setStatus v := by
  cases hi : s.serIdx
  · rw [State.serBeat_high hi, State.serBeat_high (s := s.setStatus v) hi]; rfl
  · rw [State.serBeat_low hi, State.serBeat_low (s := s.setStatus v) hi]; rfl
  · rw [State.serBeat_value hi, State.serBeat_value (s := s.setStatus v) hi]
    exact State.encAdvance_setStatus ((s.putDout s.serValue).setSerIdx .high) v

theorem State.fetchByte_setStatus (s : State) (b : Byte) (v : Status) :
    (s.setStatus v).fetchByte b = (s.fetchByte b).setStatus v := by
  cases hi : s.desIdx
  · rw [State.fetchByte_high b hi, State.fetchByte_high (s := s.setStatus v) b hi]; rfl
  · rw [State.fetchByte_low b hi, State.fetchByte_low (s := s.setStatus v) b hi]; rfl
  · by_cases hc : 0 < s.expCount.toNat <;> simp only [State.fetchByte, State.setStatus_desIdx, hi,
      State.setDesIdx_expCount, State.setExpValue_expCount, State.setStatus_expCount, hc, if_true, if_false]
    · rfl
    · exact State.decAdvance_setStatus ((s.setExpValue b).setDesIdx .high) v

theorem State.expandBeat_setStatus (s : State) (v : Status) :
    (s.setStatus v).expandBeat = s.expandBeat.setStatus v := by
  by_cases hc : s.expCount - 1 = 0 <;>
    simp only [State.expandBeat, State.setExpCount_expCount, State.setStatus_expCount, hc, if_true, if_false]
  · exact State.decAdvance_setStatus ((s.putDout s.expValue).setExpCount 0) v
  · rfl

/-- The result with `STATUS` written to `v`. -/
def Result.setStatus (v : Status) : Result → Result
  | .next t => .next (t.setStatus v)
  | .fault r => .fault r
  | .refused r => .refused r

@[simp] theorem Result.setStatus_next (v : Status) (t : State) :
    Result.setStatus v (.next t) = .next (t.setStatus v) := rfl

theorem execEncTake_setStatus (s : State) (v : Status) :
    execEncTake (s.setStatus v) = Result.setStatus v (execEncTake s) := by
  by_cases h : s.st = .encScan ∧ 0 < s.rem.toNat
  · cases hd : s.din <;> simp [execEncTake, h, hd, State.popDin_setStatus, State.encScanByte_setStatus]
  · simp [execEncTake, h]

theorem execSerPut_setStatus (s : State) (v : Status) :
    execSerPut (s.setStatus v) = Result.setStatus v (execSerPut s) := by
  by_cases h : s.st = .encEmit <;> simp [execSerPut, h, State.serBeat_setStatus]

theorem execDesTake_setStatus (s : State) (v : Status) :
    execDesTake (s.setStatus v) = Result.setStatus v (execDesTake s) := by
  by_cases h : s.st = .decFetch ∧ 0 < s.rem.toNat
  · cases hd : s.din <;> simp [execDesTake, h, hd, State.popDin_setStatus, State.fetchByte_setStatus]
  · simp [execDesTake, h]

theorem execExpPut_setStatus (s : State) (v : Status) :
    execExpPut (s.setStatus v) = Result.setStatus v (execExpPut s) := by
  by_cases h : s.st = .decExpand ∧ 0 < s.expCount.toNat <;> simp [execExpPut, h, State.expandBeat_setStatus]

/-- The four data steps neither read `STATUS` nor write it (R23). -/
theorem exec_data_setStatus {i : Instr} {s t : State} (v : Status)
    (hi : i = .encTake ∨ i = .serPut ∨ i = .desTake ∨ i = .expPut) (h : exec i s = .next t) :
    exec i (s.setStatus v) = .next (t.setStatus v) := by
  have hcomm : exec i (s.setStatus v) = Result.setStatus v (exec i s) := by
    rcases hi with rfl | rfl | rfl | rfl
    · exact execEncTake_setStatus s v
    · exact execSerPut_setStatus s v
    · exact execDesTake_setStatus s v
    · exact execExpPut_setStatus s v
  rw [hcomm, h, Result.setStatus_next]

/-- Settles O38: `exec_status_cases` says which operation writes STATUS and which copies it, and the data steps commute
with writing it. -/
theorem statusIsWrittenByCommandsOnly : Obligations.StatusIsWrittenByCommandsOnly := by
  unfold Obligations.StatusIsWrittenByCommandsOnly
  exact ⟨fun _ _ _ _ h hc => exec_status_of_tookCmd h hc, fun _ _ _ h hc => exec_status_of_cmd_eq h hc,
    fun _ _ _ _ h hp => exec_putRsp_eq_status h hp, fun _ _ v hs hc => exec_instr_setStatus v hs hc,
    fun _ _ _ v hi h => exec_data_setStatus v hi h⟩

end Sys2Proof.Machine

/-! PROOFS. O9: the outputs, the one channel that can transfer, and the one token at an edge (R43). -/

namespace Sys2Proof.Machine

/-! ### What the outputs show -/

theorem highByte_eq_extractLsb' (c : Count) : highByte c = BitVec.extractLsb' 8 8 c := by
  apply BitVec.eq_of_toNat_eq
  simp [highByte, Nat.shiftRight_eq_div_pow]

theorem lowByte_eq_extractLsb' (c : Count) : lowByte c = BitVec.extractLsb' 0 8 c := by
  apply BitVec.eq_of_toNat_eq
  simp [lowByte]

theorem State.doutData_encEmit {s : State} (h : s.st = .encEmit) : s.doutData = some s.serByte := by
  simp [State.doutData, h]

theorem State.doutData_decExpand {s : State} (h : s.st = .decExpand) : s.doutData = some s.expValue := by
  simp [State.doutData, h]

theorem State.rspStatus_resp {s : State} (h : s.st = .resp) : s.rspStatus = some s.status := if_pos h

theorem State.one_channel_ready (s : State) :
    [s.cmdReady, s.dinReady, s.doutValid, s.rspValid].count true = 1 := by
  cases h : s.st <;> simp [State.cmdReady, State.dinReady, State.doutValid, State.rspValid, h]

theorem State.SameRegs.outputs_eq {s t : State} (h : s.SameRegs t) :
    t.cmdReady = s.cmdReady ∧ t.dinReady = s.dinReady ∧ t.doutValid = s.doutValid ∧ t.doutData = s.doutData ∧
      t.rspValid = s.rspValid ∧ t.rspStatus = s.rspStatus := by
  obtain ⟨hst, _, hstatus, _, _, _, hcount, hvalue, hidx, _, _, _, hexp⟩ := h
  simp [State.cmdReady, State.dinReady, State.doutValid, State.doutData, State.serByte, State.rspValid,
    State.rspStatus, hst, hstatus, hcount, hvalue, hidx, hexp]

/-! ### Which token the selected operation moves -/

theorem State.NoToken.refl (s : State) : s.NoToken s := ⟨rfl, rfl, rfl, rfl⟩

/-- No token moves, or one: on an input channel that is ready, or on an output channel, and then the one it shows. -/
def State.MovesAtMostOne (s t : State) : Prop :=
  s.NoToken t ∨ (∃ c, s.cmdReady = true ∧ s.TookCmd t c) ∨ (∃ b, s.dinReady = true ∧ s.TookDin t b) ∨
    (∃ b, s.doutData = some b ∧ s.PutDout t b) ∨ (∃ v, s.rspStatus = some v ∧ s.PutRsp t v)

theorem State.MovesAtMostOne.of_eq {s t : State} (h : t = s) : s.MovesAtMostOne t := .inl (h ▸ .refl s)

theorem State.TookCmd.movesAtMostOne {s t : State} {c : CmdToken} (h : s.TookCmd t c) (hs : s.st = .idle) :
    s.MovesAtMostOne t := .inr (.inl ⟨c, by simp [State.cmdReady, hs], h⟩)

theorem State.TookDin.movesAtMostOne {s t : State} {b : Byte} (h : s.TookDin t b)
    (hs : s.st = .encScan ∨ s.st = .decFetch) : s.MovesAtMostOne t :=
  .inr (.inr (.inl ⟨b, by simpa [State.dinReady] using hs, h⟩))

theorem State.PutDout.movesAtMostOne {s t : State} {b : Byte} (h : s.PutDout t b) (hs : s.doutData = some b) :
    s.MovesAtMostOne t := .inr (.inr (.inr (.inl ⟨b, hs, h⟩)))

theorem State.PutRsp.movesAtMostOne {s t : State} {v : Status} (h : s.PutRsp t v) (hs : s.rspStatus = some v) :
    s.MovesAtMostOne t := .inr (.inr (.inr (.inr ⟨v, hs, h⟩)))

theorem execEncode_movesAtMostOne {len : Nat} {s t : State} (h : execEncode len s = .next t) :
    s.MovesAtMostOne t := by
  rcases execEncode_next h with ht | ⟨hs, l, q, _, hc, rfl⟩
  · exact .of_eq ht
  · exact State.TookCmd.movesAtMostOne (c := ⟨.encode, l⟩) (by simp [State.TookCmd, hc]) hs

theorem execDecode_movesAtMostOne {len : Nat} {s t : State} (h : execDecode len s = .next t) :
    s.MovesAtMostOne t := by
  rcases execDecode_next h with ht | ⟨hs, l, q, _, hc, ⟨_, rfl⟩ | ⟨_, rfl⟩⟩
  · exact .of_eq ht
  · exact State.TookCmd.movesAtMostOne (c := ⟨.decode, l⟩)
      (by simp [State.TookCmd, State.raiseMalformedInput_eq, hc]) hs
  · exact State.TookCmd.movesAtMostOne (c := ⟨.decode, l⟩) (by simp [State.TookCmd, hc]) hs

theorem exec_instr_movesAtMostOne {c : CmdToken} {s t : State} (h : exec c.instr s = .next t) :
    s.MovesAtMostOne t := by
  obtain ⟨op, l⟩ := c
  cases op with
  | encode => exact execEncode_movesAtMostOne h
  | decode => exact execDecode_movesAtMostOne h

/-- Not so of every operation: REC moves the three tokens of a record (log 10), but no state selects it. -/
theorem exec_selected_movesAtMostOne {i : Instr} {s t : State} (hi : s.selected = some i)
    (h : exec i s = .next t) : s.MovesAtMostOne t := by
  rcases State.selected_cases hi with ⟨_, c, _, _, rfl⟩ | ⟨_, rfl⟩ | ⟨_, rfl⟩ | ⟨_, rfl⟩ | ⟨_, rfl⟩ | ⟨_, rfl⟩
  · exact exec_instr_movesAtMostOne h
  · rcases execEncTake_next h with ht | ⟨hs, _, b, _, hd, rfl⟩
    · exact .of_eq ht
    · exact (State.encScanByte_takes hd b).movesAtMostOne (.inl hs)
  · rcases execSerPut_next h with ht | ⟨hs, rfl⟩
    · exact .of_eq ht
    · exact s.serBeat_puts.movesAtMostOne (State.doutData_encEmit hs)
  · rcases execDesTake_next h with ht | ⟨hs, _, b, _, hd, rfl⟩
    · exact .of_eq ht
    · exact (State.fetchByte_takes hd b).movesAtMostOne (.inr hs)
  · rcases execExpPut_next h with ht | ⟨hs, _, rfl⟩
    · exact .of_eq ht
    · exact s.expandBeat_puts.movesAtMostOne (State.doutData_decExpand hs)
  · rcases execCtlResp_next h with ht | ⟨hs, rfl⟩
    · exact .of_eq ht
    · exact s.respond_puts.movesAtMostOne (State.rspStatus_resp hs)

/-- Using up the edge changes neither the outputs nor a channel, so what the operation moves, the step moves. -/
theorem step_movesAtMostOne {s t : State} (hr : s.edge.rst = false) (h : step s = .next t) :
    s.MovesAtMostOne t := by
  rcases step_cases h with ⟨hrst, _⟩ | ⟨_, _, rfl⟩ | ⟨_, i, _, hi, he⟩
  · simp [hr] at hrst
  · exact .inl s.tick_noToken
  · exact exec_selected_movesAtMostOne (s := s.tick) hi he

/-- Settles O9: the outputs by cases of ST, and the one token from what the selected operation moves. -/
theorem outputsAndOneTokenPerEdge : Obligations.OutputsAndOneTokenPerEdge := by
  unfold Obligations.OutputsAndOneTokenPerEdge
  refine ⟨fun s => ⟨?_, ?_, ?_, fun h => ?_, State.doutData_decExpand, ?_, State.rspStatus_resp,
    s.one_channel_ready⟩, fun _ _ => State.SameRegs.outputs_eq, fun _ _ => step_movesAtMostOne⟩
  · simp [State.cmdReady]
  · simp [State.dinReady]
  · simp [State.doutValid]
  · rw [State.doutData_encEmit h, ← highByte_eq_extractLsb', ← lowByte_eq_extractLsb']
    rfl
  · simp [State.rspValid]

end Sys2Proof.Machine

/-! PROOFS. O4: the STEP format's codes and what they select, and the sub-indices (R65). -/

namespace Sys2Proof.Machine

/-! ### The codes of ST -/

/-- No value of ST has a code above 101 (R65). -/
theorem Phase.code_le_five (p : Phase) : p.code ≤ 5 := by cases p <;> decide

theorem decodeWord_step_unused {w : Nat} (h : w = 0b110 ∨ w = 0b111) :
    decodeWord .step w = .error .unusedStateCode := by
  obtain rfl | rfl := h <;> rfl

/-- In IDLE the operation selected is the command at the head of `cmd` (R65, R67). -/
theorem State.selected_idle {s : State} {c : CmdToken} {q : List CmdToken} (hs : s.st = .idle)
    (hc : s.cmd = c :: q) : s.selected = some c.instr := by
  simp [State.selected, Phase.code, decodeStep, hs, hc]

/-! ### The sub-indices -/

theorem RecIdx.toNat_lt (k : RecIdx) : k.toNat < 3 := by cases k <;> decide

theorem RecIdx.toNat_inj {j k : RecIdx} : j.toNat = k.toNat ↔ j = k := by cases j <;> cases k <;> decide

theorem State.serByte_high {s : State} (h : s.serIdx = .high) : s.serByte = highByte s.serCount := by
  simp [State.serByte, h]

theorem State.serByte_low {s : State} (h : s.serIdx = .low) : s.serByte = lowByte s.serCount := by
  simp [State.serByte, h]

theorem State.serByte_value {s : State} (h : s.serIdx = .value) : s.serByte = s.serValue := by
  simp [State.serByte, h]

/-- Whether the count starts an expansion or not, the third byte is the value (R120). -/
theorem State.fetchByte_value_expValue {s : State} (b : Byte) (h : s.desIdx = .value) :
    (s.fetchByte b).expValue = b := by
  rcases State.fetchByte_value b h with ⟨_, he⟩ | ⟨_, he⟩ <;> rw [he]
  · rfl
  · obtain ⟨_, _, _, ⟨_, _, _, hv⟩, _⟩ := ((s.setExpValue b).setDesIdx .high).decAdvance_frame
    exact hv

/-- Settles O4: the codes are read off the tables, no code exceeds 101, and a sub-index is known by its number, so each
number gives the one case of `serByte` and of `fetchByte`. -/
theorem stepCodesAndSubIndices : Obligations.StepCodesAndSubIndices := by
  unfold Obligations.StepCodesAndSubIndices
  refine ⟨⟨rfl, rfl, rfl, rfl, rfl, rfl⟩, ⟨rfl, rfl, rfl, rfl, rfl⟩, rfl, fun s c q hs hc => ?command,
    fun w hw => ⟨decodeWord_step_unused hw, fun p hp => ?unused⟩, ⟨rfl, rfl, rfl, fun k => k.toNat_lt.ne⟩,
    fun s => ⟨fun h => ?_, fun h => ?_, fun h => ?_⟩, fun s b => ⟨fun h => ?_, fun h => ?_, fun h => ?_⟩⟩
  case command => exact State.selected_idle hs hc
  case unused =>
    have := p.code_le_five
    omega
  · exact State.serByte_high (RecIdx.toNat_inj.1 h)
  · exact State.serByte_low (RecIdx.toNat_inj.1 h)
  · exact State.serByte_value (RecIdx.toNat_inj.1 h)
  · rw [State.fetchByte_high b (RecIdx.toNat_inj.1 h)]
    rfl
  · rw [State.fetchByte_low b (RecIdx.toNat_inj.1 h)]
    rfl
  · exact State.fetchByte_value_expValue b (RecIdx.toNat_inj.1 h)

end Sys2Proof.Machine

/-! PROOFS. O19, O20, O26: the two commands and the response, as whole states (R81, R82, R83). -/

namespace Sys2Proof.Machine

/-! ### The command at the head is taken -/

theorem State.popCmd_cons {s : State} {c : CmdToken} {q : List CmdToken} (hc : s.cmd = c :: q) :
    s.popCmd = { s with cmd := q, cmdHeld := false } := by
  simp [State.popCmd, hc]

/-- Started with length `l` (R81, R82): STATUS 0, the indices cleared, REM = `l`, and in `p` unless `l` is 0. -/
def State.startCommand (s : State) (l : Len) (p : Phase) : State :=
  (((s.popCmd).clearIndices.setStatus .ok).setRem l).goto (if l.toNat = 0 then .resp else p)

theorem State.startCommand_cons {s : State} {c : CmdToken} {q : List CmdToken} (l : Len) (p : Phase)
    (hc : s.cmd = c :: q) :
    s.startCommand l p = { s with
      cmd := q, cmdHeld := false, runValid := false, serIdx := .high, desIdx := .high, status := .ok, rem := l,
      st := if l.toNat = 0 then .resp else p } := by
  rw [State.startCommand, State.popCmd_cons hc]
  rfl

theorem execEncode_offered {s : State} {l : Len} (ho : s.offeredLen .encode l.toNat = some l) :
    execEncode l.toNat s = .next (s.startCommand l .encScan) := by
  rw [execEncode, ho]
  rfl

theorem execDecode_offered_malformed {s : State} {l : Len} (ho : s.offeredLen .decode l.toNat = some l)
    (hm : l.toNat % 3 ≠ 0) : execDecode l.toNat s = .next s.popCmd.raiseMalformedInput := by
  have hg : lengthMalformed l.toNat = true := decide_eq_true hm
  simp only [execDecode, ho, hg, if_true]

theorem execDecode_offered_wellFormed {s : State} {l : Len} (ho : s.offeredLen .decode l.toNat = some l)
    (hm : l.toNat % 3 = 0) : execDecode l.toNat s = .next (s.startCommand l .decFetch) := by
  have hg : lengthMalformed l.toNat = false := decide_eq_false (not_not_intro hm)
  simp only [execDecode, ho, hg, Bool.false_eq_true, if_false]
  rfl

/-- Settles O19: the command at the head is on offer, so ENCODE starts it. -/
theorem encodeCommandStarts : Obligations.EncodeCommandStarts := by
  unfold Obligations.EncodeCommandStarts
  intro s len q hs hc
  calc exec (.encode len.toNat) s
      _ = .next (s.startCommand len .encScan) := execEncode_offered (State.offeredLen_head hs hc)
      _ = _ := by rw [State.startCommand_cons len .encScan hc]

/-- Settles O20: the command at the head is on offer, so DECODE raises on the guard and otherwise starts it. -/
theorem decodeCommandStartsOrRaises : Obligations.DecodeCommandStartsOrRaises := by
  unfold Obligations.DecodeCommandStartsOrRaises
  intro s len q hs hc
  have ho : s.offeredLen .decode len.toNat = some len := State.offeredLen_head hs hc
  by_cases hm : len.toNat % 3 = 0
  · rw [if_neg (not_not_intro hm), ← State.startCommand_cons len .decFetch hc]
    exact execDecode_offered_wellFormed ho hm
  · rw [if_pos hm]
    calc exec (.decode len.toNat) s
        _ = .next s.popCmd.raiseMalformedInput := execDecode_offered_malformed ho hm
        _ = _ := by rw [State.raiseMalformedInput_eq, State.popCmd_cons hc]

/-! ### The response -/

theorem execCtlResp_resp {s : State} (hs : s.st = .resp) : execCtlResp s = .next s.respond := if_pos hs

/-- Settles O26: in RESP the response step is enabled, and `State.respond_eq` is its effect. -/
theorem ctlRespPutsStatusAndReturns : Obligations.CtlRespPutsStatusAndReturns := by
  unfold Obligations.CtlRespPutsStatusAndReturns
  intro s hs
  rw [← State.respond_eq]
  exact execCtlResp_resp hs

end Sys2Proof.Machine

/-! PROOFS. O41: `mruns` computes the one list of maximal runs (R90). -/

namespace Sys2Proof.Codec

/-! ### One more byte in front -/

/-- The bytes of a list of runs. -/
def expandRuns (rs : List (Nat × Byte)) : List Byte := rs.flatMap fun r => List.replicate r.1 r.2

/-- The runs are not empty and no two neighbours could be one run (R90). -/
def AreMaximalRuns (rs : List (Nat × Byte)) : Prop :=
  (∀ r ∈ rs, 1 ≤ r.1) ∧ rs.IsChain fun r r' => r.2 ≠ r'.2

/-- The first run, if there is one, is not of `x`. -/
def NotOpenedBy (x : Byte) (rs : List (Nat × Byte)) : Prop := ∀ r ∈ rs.head?, x ≠ r.2

theorem expandRuns_cons (n : Nat) (v : Byte) (rs : List (Nat × Byte)) :
    expandRuns ((n, v) :: rs) = List.replicate n v ++ expandRuns rs := by simp [expandRuns]

theorem areMaximalRuns_nil : AreMaximalRuns [] := by simp [AreMaximalRuns]

theorem areMaximalRuns_cons {n : Nat} {v : Byte} {rs : List (Nat × Byte)} :
    AreMaximalRuns ((n, v) :: rs) ↔ 1 ≤ n ∧ NotOpenedBy v rs ∧ AreMaximalRuns rs := by
  simp only [AreMaximalRuns, NotOpenedBy, List.forall_mem_cons, List.isChain_cons]
  tauto

theorem mruns_cons_extends {x : Byte} {xs : List Byte} {n : Nat} {rs : List (Nat × Byte)}
    (h : mruns xs = (n, x) :: rs) : mruns (x :: xs) = (n + 1, x) :: rs := by
  simp [mruns, h]

theorem mruns_cons_opens {x : Byte} {xs : List Byte} (h : NotOpenedBy x (mruns xs)) :
    mruns (x :: xs) = (1, x) :: mruns xs := by
  cases hr : mruns xs with
  | nil => simp [mruns, hr]
  | cons r rs =>
    have hne : x ≠ r.2 := h r (by simp [hr])
    simp [mruns, hr, hne]

/-- A byte in front extends the first run or opens a new one. -/
theorem mruns_cons_cases (x : Byte) (xs : List Byte) :
    (∃ n rs, mruns xs = (n, x) :: rs ∧ mruns (x :: xs) = (n + 1, x) :: rs) ∨
      (NotOpenedBy x (mruns xs) ∧ mruns (x :: xs) = (1, x) :: mruns xs) := by
  by_cases h : NotOpenedBy x (mruns xs)
  · exact .inr ⟨h, mruns_cons_opens h⟩
  · simp only [NotOpenedBy, not_forall, not_not] at h
    obtain ⟨⟨n, v⟩, hhead, rfl⟩ := h
    obtain ⟨rs, hr⟩ := List.head?_eq_some_iff.1 hhead
    exact .inl ⟨n, rs, hr, mruns_cons_extends hr⟩

/-! ### The runs of a byte sequence, and back -/

theorem expandRuns_mruns (b : List Byte) : expandRuns (mruns b) = b := by
  induction b with
  | nil => rfl
  | cons x xs ih =>
    rcases mruns_cons_cases x xs with ⟨n, rs, hr, he⟩ | ⟨_, he⟩
    · rw [hr, expandRuns_cons] at ih
      rw [he, expandRuns_cons, List.replicate_succ, List.cons_append, ih]
    · rw [he, expandRuns_cons, ih]
      rfl

theorem areMaximalRuns_mruns (b : List Byte) : AreMaximalRuns (mruns b) := by
  induction b with
  | nil => exact areMaximalRuns_nil
  | cons x xs ih =>
    rcases mruns_cons_cases x xs with ⟨n, rs, hr, he⟩ | ⟨hx, he⟩
    · rw [hr, areMaximalRuns_cons] at ih
      obtain ⟨_, hx, hrs⟩ := ih
      exact he ▸ areMaximalRuns_cons.2 ⟨n.succ_pos, hx, hrs⟩
    · exact he ▸ areMaximalRuns_cons.2 ⟨le_rfl, hx, ih⟩

/-- Copies of one byte in front of runs that it does not open are one run. -/
theorem mruns_replicate_append {v : Byte} {xs : List Byte} (h : NotOpenedBy v (mruns xs)) (n : Nat) :
    mruns (List.replicate (n + 1) v ++ xs) = (n + 1, v) :: mruns xs := by
  induction n with
  | zero => exact mruns_cons_opens h
  | succ n ih => exact mruns_cons_extends ih

theorem mruns_expandRuns {rs : List (Nat × Byte)} (h : AreMaximalRuns rs) : mruns (expandRuns rs) = rs := by
  induction rs with
  | nil => rfl
  | cons r rs ih =>
    obtain ⟨n, v⟩ := r
    obtain ⟨hn, hv, hrs⟩ := areMaximalRuns_cons.1 h
    obtain ⟨m, rfl⟩ := Nat.exists_eq_add_of_le' hn
    have ih := ih hrs
    rw [expandRuns_cons, mruns_replicate_append (ih.symm ▸ hv), ih]

/-- Settles O41: `mruns` gives maximal runs whose expansion is `b`, and gives back any maximal runs from their
expansion. -/
theorem maximalRunsAreUnique : Obligations.MaximalRunsAreUnique := by
  unfold Obligations.MaximalRunsAreUnique
  intro b rs
  constructor
  · rintro rfl
    obtain ⟨hpos, hchain⟩ := areMaximalRuns_mruns b
    exact ⟨hpos, List.isChain_iff_getElem.1 hchain, (expandRuns_mruns b).symm⟩
  · rintro ⟨hpos, hne, rfl⟩
    exact mruns_expandRuns ⟨hpos, List.isChain_iff_getElem.2 hne⟩

end Sys2Proof.Codec

/-! PROOFS. O42: the records of one maximal run (R91). -/

namespace Sys2Proof.Codec

theorem split_of_mod_eq_zero {n : Nat} (v : Byte) (h : n % 65535 = 0) :
    split n v = List.replicate (n / 65535) ⟨65535, v⟩ := by
  simp [split, h]

theorem split_of_mod_ne_zero {n : Nat} (v : Byte) (h : n % 65535 ≠ 0) :
    split n v = List.replicate (n / 65535) ⟨65535, v⟩ ++ [⟨BitVec.ofNat 16 (n % 65535), v⟩] := by
  simp [split, h]

/-- The remainder of a run fits a count. -/
theorem remainder_toNat (n : Nat) : (BitVec.ofNat 16 (n % 65535)).toNat = n % 65535 := by
  rw [BitVec.toNat_ofNat]
  omega

theorem split_length (n : Nat) (v : Byte) : (split n v).length = (n + 65534) / 65535 := by
  by_cases h : n % 65535 = 0
  · rw [split_of_mod_eq_zero v h, List.length_replicate]
    omega
  · rw [split_of_mod_ne_zero v h, List.length_append, List.length_replicate, List.length_singleton]
    omega

/-- A record of a run is full, or is its remainder, which is not 0. -/
theorem mem_split {n : Nat} {v : Byte} {r : Record} (hr : r ∈ split n v) :
    r = ⟨65535, v⟩ ∨ (n % 65535 ≠ 0 ∧ r = ⟨BitVec.ofNat 16 (n % 65535), v⟩) := by
  by_cases h : n % 65535 = 0
  · rw [split_of_mod_eq_zero v h] at hr
    exact .inl (List.eq_of_mem_replicate hr)
  · rw [split_of_mod_ne_zero v h, List.mem_append, List.mem_singleton] at hr
    exact hr.imp List.eq_of_mem_replicate fun he => ⟨h, he⟩

theorem split_count_range {n : Nat} {v : Byte} {r : Record} (hr : r ∈ split n v) :
    1 ≤ r.count.toNat ∧ r.count.toNat ≤ 65535 ∧ r.value = v := by
  rcases mem_split hr with rfl | ⟨hn, rfl⟩
  · simp
  · simp only [remainder_toNat]
    exact ⟨by omega, by omega, trivial⟩

theorem split_count_sum (n : Nat) (v : Byte) : ((split n v).map fun r => r.count.toNat).sum = n := by
  have hfull : (65535 : Count).toNat = 65535 := rfl
  by_cases h : n % 65535 = 0
  · simp only [split_of_mod_eq_zero v h, List.map_replicate, List.sum_replicate_nat, hfull]
    omega
  · simp only [split_of_mod_ne_zero v h, List.map_append, List.sum_append_nat, List.map_replicate, List.map_singleton,
      List.sum_replicate_nat, List.sum_singleton, remainder_toNat, hfull]
    omega

/-- Only the last record of a run can be less than full. -/
theorem split_dropLast_full {n : Nat} {v : Byte} {r : Record} (hr : r ∈ (split n v).dropLast) :
    r = ⟨65535, v⟩ := by
  by_cases h : n % 65535 = 0
  · rw [split_of_mod_eq_zero v h] at hr
    exact List.eq_of_mem_replicate (List.mem_of_mem_dropLast hr)
  · rw [split_of_mod_ne_zero v h, List.dropLast_concat] at hr
    exact List.eq_of_mem_replicate hr

/-- Settles O42: the definition, and what it says of the length, the counts, their sum and the records before the
last. -/
theorem splitCoversTheRun : Obligations.SplitCoversTheRun := by
  unfold Obligations.SplitCoversTheRun
  intro n v _
  refine ⟨?_, split_length n v, fun _ => split_count_range, split_count_sum n v, fun r hr => ?_⟩
  · rw [ite_not]
    rfl
  · rw [split_dropLast_full hr]
    rfl

end Sys2Proof.Codec

/-! PROOFS. O22, O21: the two "what next" procedures and ENC.TAKE, as whole states (R97, R98, R121). -/

namespace Sys2Proof.Machine

/-- Settles O22: the model's equation for each case of the two procedures. -/
theorem whatNextProcedures : Obligations.WhatNextProcedures := by
  unfold Obligations.WhatNextProcedures
  exact fun s => ⟨State.encAdvance_scan, State.encAdvance_flush, State.encAdvance_done, State.decAdvance_fetch,
    State.decAdvance_done⟩

/-- The byte at the head of `din` is taken, and REM counts down without wrapping (R97, R120). -/
theorem State.popDin_cons {s : State} {b : Byte} {d : List Byte} (hr : 0 < s.rem.toNat) (hd : s.din = b :: d) :
    s.popDin = { s with din := d, dinHeld := false, rem := s.rem - 1 } := by
  simp [State.popDin, hd, lenPred_eq_sub hr]

theorem execEncTake_takes {s : State} {b : Byte} {d : List Byte} (hs : s.st = .encScan) (hr : 0 < s.rem.toNat)
    (hd : s.din = b :: d) : execEncTake s = .next (s.popDin.encScanByte b) := by
  simp [execEncTake, hs, hr, hd]

/-- The three cases of R97 as one equation. -/
theorem State.encScanByte_eq (s : State) (b : Byte) :
    s.encScanByte b =
      if s.runValid = false then ((s.newRun b).setRunValid true).encAdvance
      else if b = s.runValue ∧ s.runCount.toNat < 65535 then s.extendRun.encAdvance
      else (s.latchRun.newRun b).goto .encEmit := by
  simp only [State.encScanByte, State.extendsRun, decide_eq_true_eq]

/-- Settles O21: ENC.TAKE takes the byte at the head, and `State.encScanByte_eq` is what it does with it. -/
theorem encTakeOpensExtendsOrCloses : Obligations.EncTakeOpensExtendsOrCloses := by
  unfold Obligations.EncTakeOpensExtendsOrCloses
  intro s b d hs hr hd
  calc exec .encTake s
      _ = .next (s.popDin.encScanByte b) := execEncTake_takes hs hr hd
      _ = _ := by rw [State.encScanByte_eq, State.popDin_cons hr hd]; rfl

end Sys2Proof.Machine

/-! PROOFS. O5: the bytes of a record as numbers, and the counts the encoder packs (R105, R107). -/

namespace Sys2Proof

theorem pack_toNat (r : Record) :
    (pack r).map BitVec.toNat = [r.count.toNat / 256, r.count.toNat % 256, r.value.toNat] := by
  simp only [pack, List.map_cons, List.map_nil, highByte_toNat, lowByte_toNat]

/-- The bytes of a record stand for that record (R109). -/
theorem unpack_pack_bytes (r : Record) : unpack (highByte r.count) (lowByte r.count) r.value = r := by
  rw [unpack, countOf_bytes]

theorem pack_injective : Function.Injective pack := by
  intro r r' h
  simp only [pack, List.cons.injEq, and_true] at h
  obtain ⟨hhigh, hlow, hvalue⟩ := h
  rw [← unpack_pack_bytes r, hhigh, hlow, hvalue, unpack_pack_bytes]

/-- Every record of the encoder is a record of one maximal run, so its count is in range (R91, R92). -/
theorem Codec.encRuns_count_range {b : List Byte} {r : Record} (hr : r ∈ Codec.encRuns b) :
    1 ≤ r.count.toNat ∧ r.count.toNat ≤ 65535 := by
  obtain ⟨run, _, hsplit⟩ := List.mem_flatMap.1 hr
  obtain ⟨hpos, hle, _⟩ := Codec.split_count_range hsplit
  exact ⟨hpos, hle⟩

/-- Settles O5: the bytes as numbers, injectivity from `unpack` giving the record back, and the range of a run's
counts. -/
theorem packAndUnpackAreBigEndian : Obligations.PackAndUnpackAreBigEndian := by
  unfold Obligations.PackAndUnpackAreBigEndian
  exact ⟨fun c v => pack_toNat ⟨c, v⟩, fun _ _ h => pack_injective h, fun _ _ => Codec.encRuns_count_range,
    fun b0 b1 _ => ⟨countOf_toNat b0 b1, rfl⟩⟩

end Sys2Proof

/-! PROOFS. O23: SER.PUT, as whole states (R110). -/

namespace Sys2Proof.Machine

theorem execSerPut_puts {s : State} (hs : s.st = .encEmit) : execSerPut s = .next s.serBeat := if_pos hs

/-- Settles O23: in ENC_EMIT the put is enabled, and the sub-index picks its byte, which is a slice of the latch. -/
theorem serPutPutsTheThreeBytes : Obligations.SerPutPutsTheThreeBytes := by
  unfold Obligations.SerPutPutsTheThreeBytes
  intro s hs
  rw [← highByte_eq_extractLsb', ← lowByte_eq_extractLsb']
  calc exec .serPut s
      _ = .next s.serBeat := execSerPut_puts hs
      _ = _ := by
        cases hi : s.serIdx with
        | high => rw [State.serBeat_high hi]; rfl
        | low => rw [State.serBeat_low hi]; rfl
        | value => rw [State.serBeat_value hi]; rfl

end Sys2Proof.Machine

/-! PROOFS. O24, O25: DES.TAKE and EXP.PUT, as whole states (R120, R122). -/

namespace Sys2Proof

/-- `{B0, B1}` is the concatenation of the two bytes (R66). -/
theorem countOf_eq_append (b0 b1 : Byte) : countOf b0 b1 = b0 ++ b1 := by
  apply BitVec.eq_of_toNat_eq
  rw [countOf_toNat, BitVec.toNat_append, ← Nat.shiftLeft_add_eq_or_of_lt b1.isLt, Nat.shiftLeft_eq, Nat.mul_comm]

end Sys2Proof

namespace Sys2Proof.Machine

theorem execDesTake_takes {s : State} {b : Byte} {d : List Byte} (hs : s.st = .decFetch) (hr : 0 < s.rem.toNat)
    (hd : s.din = b :: d) : execDesTake s = .next (s.popDin.fetchByte b) := by
  simp [execDesTake, hs, hr, hd]

/-- Settles O24: DES.TAKE takes the byte at the head, and the sub-index says which part of the record it is; after the
third, the model's `State.fetchByte_value` splits on the count. -/
theorem desTakeUnpacksTheRecord : Obligations.DesTakeUnpacksTheRecord := by
  unfold Obligations.DesTakeUnpacksTheRecord
  intro s b d hs hr hd
  calc exec .desTake s
      _ = .next (s.popDin.fetchByte b) := execDesTake_takes hs hr hd
      _ = _ := by
        have hp := State.popDin_cons hr hd
        cases hi : s.desIdx with
        | high => rw [State.fetchByte_high (s := s.popDin) b hi, hp]; rfl
        | low => rw [State.fetchByte_low (s := s.popDin) b hi, countOf_eq_append, hp]; rfl
        | value =>
          rcases State.fetchByte_value (s := s.popDin) b hi with ⟨hc, he⟩ | ⟨hc, he⟩ <;>
            rw [State.popDin_expCount] at hc
          · rw [he, hp, if_pos hc]; rfl
          · rw [he, hp, if_neg hc.not_gt]; rfl

theorem execExpPut_puts {s : State} (hs : s.st = .decExpand) (hc : 1 ≤ s.expCount.toNat) :
    execExpPut s = .next s.expandBeat := if_pos ⟨hs, hc⟩

/-- Settles O25: in DEC_EXPAND with copies left the put is enabled, and it is the last one or it is not. -/
theorem expPutPutsOneCopy : Obligations.ExpPutPutsOneCopy := by
  unfold Obligations.ExpPutPutsOneCopy
  intro s hs hc
  calc exec .expPut s
      _ = .next s.expandBeat := execExpPut_puts hs hc
      _ = _ := by
        rcases s.expandBeat_cases with ⟨hlast, he⟩ | ⟨hmore, he⟩
        · rw [if_pos hlast, he]; rfl
        · rw [if_neg hmore, he]; rfl

end Sys2Proof.Machine

/-! PROOFS. O44, O46: the lengths of Encoded Streams, and when `decode` fails (R108, R115, R131, R135). -/

namespace Sys2Proof.Codec

/-- Settles O44: every record is serialized to three bytes. -/
theorem encodedLengthIsThreePerRecord : Obligations.EncodedLengthIsThreePerRecord := by
  unfold Obligations.EncodedLengthIsThreePerRecord
  intro b
  have hlen : (encode b).length = 3 * (encRuns b).length := serialize_length (encRuns b)
  exact ⟨hlen ▸ Nat.mul_mod_right 3 _, hlen⟩

/-- Bytes that come in threes are records (R108). -/
theorem exists_deserialize_of_length {e : List Byte} (h : e.length % 3 = 0) : ∃ rs, deserialize e = some rs := by
  induction e using deserialize.induct with
  | case1 => exact ⟨[], rfl⟩
  | case2 b0 b1 b2 rest ih =>
    have hrest : rest.length % 3 = 0 := (Nat.add_mod_right rest.length 3).symm.trans h
    obtain ⟨rs, hrs⟩ := ih hrest
    exact ⟨unpack b0 b1 b2 :: rs, by rw [deserialize, hrs, Option.map_some]⟩
  | case3 => contradiction
  | case4 => contradiction

theorem decode_of_malformed_length {e : List Byte} (h : e.length % 3 ≠ 0) : decode e = .error .malformedInput :=
  if_pos h

theorem decode_of_deserialize {e : List Byte} {rs : List Record} (h : e.length % 3 = 0)
    (hrs : deserialize e = some rs) : decode e = .ok (expand rs) := by
  rw [decode, if_neg (not_not.2 h), hrs]

/-- Settles O46: the guard is on the length alone, and past it the bytes are records. -/
theorem decodeFailsExactlyOnMalformedLength : Obligations.DecodeFailsExactlyOnMalformedLength := by
  unfold Obligations.DecodeFailsExactlyOnMalformedLength
  refine ⟨fun _ => decode_of_malformed_length, fun e h => ?_⟩
  obtain ⟨rs, hrs⟩ := exists_deserialize_of_length h
  exact ⟨rs, hrs, decode_of_deserialize h hrs⟩

end Sys2Proof.Codec

/-! PROOFS. O45: the records of a Raw Stream stand for it, as a list and as bytes (R109, R144). -/

namespace Sys2Proof.Codec

/-- The records that start with the bytes of `r` start with `r` (R108, R109). -/
theorem deserialize_pack_append (r : Record) (e : List Byte) :
    deserialize (pack r ++ e) = (deserialize e).map (r :: ·) := by
  simp only [pack, List.cons_append, List.nil_append, deserialize, unpack_pack_bytes]

theorem deserialize_serialize (rs : List Record) : deserialize (serialize rs) = some rs := by
  induction rs with
  | nil => rfl
  | cons r rs ih => rw [serialize, List.flatMap_cons, deserialize_pack_append, ← serialize, ih, Option.map_some]

/-- Records of one value are copies of it, as many as their counts sum to. -/
theorem expand_of_forall_value {rs : List Record} {v : Byte} (h : ∀ r ∈ rs, r.value = v) :
    expand rs = List.replicate (rs.map fun r => r.count.toNat).sum v := by
  induction rs with
  | nil => rfl
  | cons r rs ih =>
    obtain ⟨rfl, hrs⟩ := List.forall_mem_cons.1 h
    rw [expand, List.flatMap_cons, ← expand, ih hrs, List.map_cons, List.sum_cons, List.replicate_add]

/-- The records of a run stand for that run (R91). -/
theorem expand_split (n : Nat) (v : Byte) : expand (split n v) = List.replicate n v := by
  have hvalue : ∀ r ∈ split n v, r.value = v := by
    intro r hr
    obtain ⟨_, _, hv⟩ := split_count_range hr
    exact hv
  rw [expand_of_forall_value hvalue, split_count_sum]

theorem expand_encRuns (b : List Byte) : expand (encRuns b) = b :=
  calc expand (encRuns b)
    _ = (mruns b).flatMap fun r => expand (split r.1 r.2) := List.flatMap_assoc
    _ = expandRuns (mruns b) := by simp only [expand_split, expandRuns]
    _ = b := expandRuns_mruns b

/-- Settles O45: each maximal run is the expansion of its records, and the bytes of the records give them back. -/
theorem expandingTheRecordsGivesTheInput : Obligations.ExpandingTheRecordsGivesTheInput := by
  unfold Obligations.ExpandingTheRecordsGivesTheInput
  exact fun b => ⟨expand_encRuns b, encRuns b, deserialize_serialize (encRuns b), expand_encRuns b⟩

end Sys2Proof.Codec

/-! PROOFS. O47: the counts the encoder emits (R32 I-e, R134). -/

namespace Sys2Proof

/-- A count whose two bytes are 00 is 0. -/
theorem eq_zero_of_bytes_eq_zero {c : Count} (hhigh : highByte c = 0) (hlow : lowByte c = 0) : c = 0 := by
  rw [← countOf_bytes c, hhigh, hlow]
  rfl

end Sys2Proof

namespace Sys2Proof.Machine

theorem State.Inv.one_le_serCount {s : State} (h : s.Inv) (hs : s.st = .encEmit) : 1 ≤ s.serCount.toNat := by
  obtain ⟨_, _, _, he, _⟩ := h
  exact he hs

/-- Settles O47: a record of a run has a count of at least 1, as the latch has by I-e, and a count of at least 1 has a
byte that is not 00. -/
theorem emittedCountsAreInRange : Obligations.EmittedCountsAreInRange := by
  unfold Obligations.EmittedCountsAreInRange
  refine ⟨fun _ _ => Codec.encRuns_count_range, fun s hinv hs => ?_⟩
  have hpos : 1 ≤ s.serCount.toNat := hinv.one_le_serCount hs
  refine ⟨hpos, Nat.le_of_lt_succ s.serCount.isLt, fun ⟨hhigh, hlow⟩ => ?_⟩
  have hzero : s.serCount = 0 := eq_zero_of_bytes_eq_zero hhigh hlow
  rw [hzero] at hpos
  contradiction

end Sys2Proof.Machine

/-! PROOFS. O7: the reset values, and the one thing that can happen in IDLE (R81, R82, R172). -/

namespace Sys2Proof.Machine

/-! ### The command at the head is the one token a command moves -/

theorem State.startCommand_tookCmd {s : State} {c : CmdToken} {q : List CmdToken} (l : Len) (p : Phase)
    (hc : s.cmd = c :: q) : s.TookCmd (s.startCommand l p) c := by
  rw [State.startCommand_cons l p hc]
  exact ⟨hc, rfl, rfl, rfl⟩

theorem State.popCmd_raiseMalformedInput_tookCmd {s : State} {c : CmdToken} {q : List CmdToken}
    (hc : s.cmd = c :: q) : s.TookCmd s.popCmd.raiseMalformedInput c := by
  rw [State.raiseMalformedInput_eq, State.popCmd_cons hc]
  exact ⟨hc, rfl, rfl, rfl⟩

theorem exec_instr_tookCmd {s : State} {c : CmdToken} {q : List CmdToken} (hs : s.st = .idle)
    (hc : s.cmd = c :: q) : ∃ t, exec c.instr s = .next t ∧ s.TookCmd t c := by
  obtain ⟨op, l⟩ := c
  have ho : s.offeredLen op l.toNat = some l := State.offeredLen_head hs hc
  cases op with
  | encode => exact ⟨_, execEncode_offered ho, State.startCommand_tookCmd l .encScan hc⟩
  | decode =>
    by_cases hm : l.toNat % 3 = 0
    · exact ⟨_, execDecode_offered_wellFormed ho hm, State.startCommand_tookCmd l .decFetch hc⟩
    · exact ⟨_, execDecode_offered_malformed ho hm, State.popCmd_raiseMalformedInput_tookCmd hc⟩

/-! ### A step in IDLE -/

/-- In IDLE only `cmd` can transfer (R43). -/
theorem State.handshake_idle {s : State} (e : Edge) (hs : s.st = .idle) : s.handshake e = s.cmdValid e := by
  simp [State.handshake, State.cmdReady, State.dinReady, State.doutValid, State.rspValid, hs]

theorem State.cmdValid_iff {s : State} {e : Edge} :
    s.cmdValid e = true ↔ (s.cmdHeld = true ∨ e.cmdOffer = true) ∧ ∃ c q, s.cmd = c :: q := by
  simp [State.cmdValid, List.ne_nil_iff_exists_cons]

/-- Using up the edge moves no channel, so what the command takes, the step takes. -/
theorem step_tookCmd {s : State} {c : CmdToken} {q : List CmdToken} (hs : s.st = .idle)
    (hr : s.edge.rst = false) (hc : s.cmd = c :: q) (hv : s.cmdValid s.edge = true) :
    ∃ t, step s = .next t ∧ s.TookCmd t c := by
  have hstep : step s = exec c.instr s.tick :=
    step_performs hr ((State.handshake_idle s.edge hs).trans hv) (State.selected_idle hs hc)
  rw [hstep]
  exact exec_instr_tookCmd (s := s.tick) hs hc

theorem step_idle_cases {s t : State} (hs : s.st = .idle) (hr : s.edge.rst = false) (h : step s = .next t) :
    t = s.tick ∨ ∃ c, s.TookCmd t c := by
  cases hv : s.cmdValid s.edge with
  | false =>
    rw [step_waits hr ((State.handshake_idle s.edge hs).trans hv)] at h
    exact .inl (Host.Outcome.next.inj h).symm
  | true =>
    obtain ⟨_, c, q, hc⟩ := State.cmdValid_iff.1 hv
    obtain ⟨u, hu, htook⟩ := step_tookCmd hs hr hc hv
    obtain rfl : u = t := Host.Outcome.next.inj (hu.symm.trans h)
    exact .inr ⟨c, htook⟩

/-- Settles O7: after reset ST is IDLE, where a step waits or takes the command on offer. -/
theorem afterResetOnlyACommandIsTaken : Obligations.AfterResetOnlyACommandIsTaken := by
  unfold Obligations.AfterResetOnlyACommandIsTaken
  refine ⟨⟨rfl, rfl, rfl⟩, fun s t hreset hr h => ?_, fun s c q hreset hr hc hoffer => ?_⟩
  · obtain ⟨hidle, _⟩ := hreset
    rcases step_idle_cases hidle hr h with rfl | htook
    · exact .inl ⟨s.tick_noToken, s.tick_sameRegs⟩
    · exact .inr htook
  · obtain ⟨hidle, _⟩ := hreset
    exact step_tookCmd hidle hr hc (State.cmdValid_iff.2 ⟨hoffer, c, q, hc⟩)

end Sys2Proof.Machine

/-! PROOFS. What the block can do at all: the events, and that every operation and every step is made of them (R84). -/

namespace Sys2Proof.Machine

/-! ### The events -/

/-- One transfer: the command, the byte or the response that moves, and what the block does with it (R81 to R83, R97,
R110, R120, R122). -/
inductive State.Event (s : State) : State → Prop where
  | encode (l : Len) (q : List CmdToken) : s.st = .idle → s.cmd = ⟨.encode, l⟩ :: q →
      State.Event s (s.startCommand l .encScan)
  | decode (l : Len) (q : List CmdToken) : s.st = .idle → s.cmd = ⟨.decode, l⟩ :: q → l.toNat % 3 = 0 →
      State.Event s (s.startCommand l .decFetch)
  | refuse (l : Len) (q : List CmdToken) : s.st = .idle → s.cmd = ⟨.decode, l⟩ :: q → l.toNat % 3 ≠ 0 →
      State.Event s s.popCmd.raiseMalformedInput
  | scan (b : Byte) (d : List Byte) : s.st = .encScan → 0 < s.rem.toNat → s.din = b :: d →
      State.Event s (s.popDin.encScanByte b)
  | emit : s.st = .encEmit → State.Event s s.serBeat
  | fetch (b : Byte) (d : List Byte) : s.st = .decFetch → 0 < s.rem.toNat → s.din = b :: d →
      State.Event s (s.popDin.fetchByte b)
  | expand : s.st = .decExpand → 0 < s.expCount.toNat → State.Event s s.expandBeat
  | respond : s.st = .resp → State.Event s s.respond

/-! ### The events of each state of ST -/

theorem State.Event.of_idle {s t : State} (h : s.Event t) (hs : s.st = .idle) :
    ∃ l q, s.cmd = ⟨.encode, l⟩ :: q ∧ t = s.startCommand l .encScan ∨
      s.cmd = ⟨.decode, l⟩ :: q ∧ (l.toNat % 3 = 0 ∧ t = s.startCommand l .decFetch ∨
        l.toNat % 3 ≠ 0 ∧ t = s.popCmd.raiseMalformedInput) := by
  cases h with
  | encode l q _ hc => exact ⟨l, q, .inl ⟨hc, rfl⟩⟩
  | decode l q _ hc hm => exact ⟨l, q, .inr ⟨hc, .inl ⟨hm, rfl⟩⟩⟩
  | refuse l q _ hc hm => exact ⟨l, q, .inr ⟨hc, .inr ⟨hm, rfl⟩⟩⟩
  | _ => simp_all

theorem State.Event.of_encScan {s t : State} (h : s.Event t) (hs : s.st = .encScan) :
    0 < s.rem.toNat ∧ ∃ b d, s.din = b :: d ∧ t = s.popDin.encScanByte b := by
  cases h with
  | scan b d _ hr hd => exact ⟨hr, b, d, hd, rfl⟩
  | _ => simp_all

theorem State.Event.of_encEmit {s t : State} (h : s.Event t) (hs : s.st = .encEmit) : t = s.serBeat := by
  cases h with
  | emit => rfl
  | _ => simp_all

theorem State.Event.of_decFetch {s t : State} (h : s.Event t) (hs : s.st = .decFetch) :
    0 < s.rem.toNat ∧ ∃ b d, s.din = b :: d ∧ t = s.popDin.fetchByte b := by
  cases h with
  | fetch b d _ hr hd => exact ⟨hr, b, d, hd, rfl⟩
  | _ => simp_all

theorem State.Event.of_decExpand {s t : State} (h : s.Event t) (hs : s.st = .decExpand) :
    0 < s.expCount.toNat ∧ t = s.expandBeat := by
  cases h with
  | expand _ hc => exact ⟨hc, rfl⟩
  | _ => simp_all

theorem State.Event.of_resp {s t : State} (h : s.Event t) (hs : s.st = .resp) : t = s.respond := by
  cases h with
  | respond => rfl
  | _ => simp_all

/-! ### Every operation is made of events -/

theorem execEncode_event {len : Nat} {s t : State} (h : execEncode len s = .next t) :
    t = s ∨ s.Event t ∧ ∃ l : Len, l.toNat = len ∧ s.TookCmd t ⟨.encode, l⟩ := by
  rcases execEncode_next h with ht | ⟨hs, l, q, hl, hc, ht⟩
  · exact .inl ht
  · simp only [len_eq_zero_iff] at ht
    exact .inr ⟨ht ▸ .encode l q hs hc, l, hl, ht ▸ State.startCommand_tookCmd l .encScan hc⟩

theorem execDecode_event {len : Nat} {s t : State} (h : execDecode len s = .next t) :
    t = s ∨ s.Event t ∧ ∃ l : Len, l.toNat = len ∧ s.TookCmd t ⟨.decode, l⟩ := by
  rcases execDecode_next h with ht | ⟨hs, l, q, hl, hc, ⟨hm, rfl⟩ | ⟨hm, ht⟩⟩
  · exact .inl ht
  · exact .inr ⟨.refuse l q hs hc (hl ▸ hm), l, hl, State.popCmd_raiseMalformedInput_tookCmd hc⟩
  · simp only [len_eq_zero_iff] at ht
    exact .inr ⟨ht ▸ .decode l q hs hc (hl ▸ hm), l, hl, ht ▸ State.startCommand_tookCmd l .decFetch hc⟩

theorem exec_instr_event {c : CmdToken} {s t : State} (h : exec c.instr s = .next t) : t = s ∨ s.Event t := by
  obtain ⟨op, l⟩ := c
  cases op with
  | encode => exact (execEncode_event h).imp_right And.left
  | decode => exact (execDecode_event h).imp_right And.left

theorem execEncTake_event {s t : State} (h : execEncTake s = .next t) : t = s ∨ s.Event t := by
  rcases execEncTake_next h with ht | ⟨hs, hr, b, d, hd, rfl⟩
  · exact .inl ht
  · exact .inr (.scan b d hs hr hd)

theorem execSerPut_event {s t : State} (h : execSerPut s = .next t) : t = s ∨ s.Event t := by
  rcases execSerPut_next h with ht | ⟨hs, rfl⟩
  · exact .inl ht
  · exact .inr (.emit hs)

theorem execDesTake_event {s t : State} (h : execDesTake s = .next t) : t = s ∨ s.Event t := by
  rcases execDesTake_next h with ht | ⟨hs, hr, b, d, hd, rfl⟩
  · exact .inl ht
  · exact .inr (.fetch b d hs hr hd)

theorem execExpPut_event {s t : State} (h : execExpPut s = .next t) : t = s ∨ s.Event t := by
  rcases execExpPut_next h with ht | ⟨hs, hc, rfl⟩
  · exact .inl ht
  · exact .inr (.expand hs hc)

/-- The three operations of the response are that event or wait (R83; log 11). -/
theorem exec_response_event {i : Instr} {s t : State} (hi : i = .ctlResp ∨ i = .rspOk ∨ i = .rspMalformed)
    (h : exec i s = .next t) : t = s ∨ s.st = .resp ∧ t = s.respond := by
  rcases hi with rfl | rfl | rfl
  · exact execCtlResp_next h
  · exact (execRspOk_next h).imp_right fun ⟨hs, _, ht⟩ => ⟨hs, ht⟩
  · exact (execRspMalformed_next h).imp_right fun ⟨hs, _, ht⟩ => ⟨hs, ht⟩

/-- The record's three bytes ahead at a record boundary are three takes (log 10). -/
theorem State.takeRecord_events {s : State} {r : Record} {d : List Byte} (hs : s.st = .decFetch)
    (hi : s.desIdx = .high) (hr : 3 ≤ s.rem.toNat) (hd : s.din = pack r ++ d) :
    Relation.ReflTransGen State.Event s (s.takeRecord r) := by
  have h1 : s.popDin.fetchByte (highByte r.count) = _ := State.fetchByte_high _ hi
  have h2 : (s.popDin.fetchByte (highByte r.count)).popDin.fetchByte (lowByte r.count) = _ :=
    State.fetchByte_low _ (by rw [h1]; rfl)
  have e1 : s.Event (s.popDin.fetchByte (highByte r.count)) :=
    .fetch _ (lowByte r.count :: r.value :: d) hs (by omega) hd
  have e2 : State.Event _ ((s.popDin.fetchByte (highByte r.count)).popDin.fetchByte (lowByte r.count)) :=
    .fetch _ (r.value :: d) (by rw [h1]; exact hs) (by rw [h1]; simp; omega) (by rw [h1]; simp [hd, pack])
  have e3 : State.Event _ (s.takeRecord r) :=
    .fetch r.value d (by rw [h2, h1]; exact hs) (by rw [h2, h1]; simp; omega) (by rw [h2, h1]; simp [hd, pack])
  exact .tail (.tail (.single e1) e2) e3

/-- The record in the latch, none of it put, is three puts (log 10). -/
theorem State.putRecord_events {s : State} (hs : s.st = .encEmit) (hi : s.serIdx = .high) :
    Relation.ReflTransGen State.Event s s.putRecord := by
  have h1 : s.serBeat = _ := State.serBeat_high hi
  have h2 : s.serBeat.serBeat = _ := State.serBeat_low (by rw [h1]; rfl)
  have e1 : s.Event s.serBeat := .emit hs
  have e2 : State.Event _ s.serBeat.serBeat := .emit (by rw [h1]; exact hs)
  have e3 : State.Event _ s.putRecord := .emit (by rw [h2, h1]; exact hs)
  exact .tail (.tail (.single e1) e2) e3

/-- An operation performs events in a row: none, one, or for REC the three of its record. -/
theorem exec_events {i : Instr} {s t : State} (h : exec i s = .next t) :
    Relation.ReflTransGen State.Event s t := by
  have atMostOne : t = s ∨ s.Event t → Relation.ReflTransGen State.Event s t := by
    rintro (rfl | he)
    · exact .refl
    · exact .single he
  have response : t = s ∨ s.st = .resp ∧ t = s.respond → Relation.ReflTransGen State.Event s t := fun hr =>
    atMostOne (hr.imp_right fun ⟨hs, ht⟩ => ht ▸ .respond hs)
  cases i with
  | encode len => exact atMostOne ((execEncode_event h).imp_right And.left)
  | decode len => exact atMostOne ((execDecode_event h).imp_right And.left)
  | encTake => exact atMostOne (execEncTake_event h)
  | serPut => exact atMostOne (execSerPut_event h)
  | desTake => exact atMostOne (execDesTake_event h)
  | expPut => exact atMostOne (execExpPut_event h)
  | ctlResp => exact response (exec_response_event (.inl rfl) h)
  | record c v =>
    rcases execRecord_next h with rfl | ⟨hs, hi, hr, ⟨d, hd⟩, rfl⟩ | ⟨hs, hi, _, _, rfl⟩
    · exact .refl
    · exact State.takeRecord_events hs hi hr hd
    · exact State.putRecord_events hs hi
  | rspOk => exact response (exec_response_event (.inr (.inl rfl)) h)
  | rspMalformed => exact response (exec_response_event (.inr (.inr rfl)) h)

/-! ### Every step without reset is an event or only uses up the edge -/

theorem exec_selected_event {i : Instr} {s t : State} (hi : s.selected = some i) (h : exec i s = .next t) :
    t = s ∨ s.Event t := by
  rcases State.selected_cases hi with ⟨_, c, _, _, rfl⟩ | ⟨_, rfl⟩ | ⟨_, rfl⟩ | ⟨_, rfl⟩ | ⟨_, rfl⟩ | ⟨_, rfl⟩
  · exact exec_instr_event h
  · exact execEncTake_event h
  · exact execSerPut_event h
  · exact execDesTake_event h
  · exact execExpPut_event h
  · exact (exec_response_event (.inl rfl) h).imp_right fun ⟨hs, ht⟩ => ht ▸ .respond hs

theorem step_event {s t : State} (hr : s.edge.rst = false) (h : step s = .next t) : t = s.tick ∨ s.tick.Event t := by
  rcases step_cases h with ⟨hrst, _⟩ | ⟨_, _, ht⟩ | ⟨_, i, _, hi, he⟩
  · simp [hr] at hrst
  · exact .inl ht
  · exact exec_selected_event hi he

/-- An edge with reset, or a step that is an event or only uses up the edge. -/
theorem step_next {s t : State} (h : step s = .next t) :
    s.edge.rst = true ∧ t = s.tick.resetEdge s.edge ∨ s.edge.rst = false ∧ (t = s.tick ∨ s.tick.Event t) := by
  cases hr : s.edge.rst with
  | false => exact .inr ⟨rfl, step_event hr h⟩
  | true =>
    rcases step_cases h with ⟨_, ht⟩ | ⟨hf, _⟩ | ⟨hf, _⟩
    · exact .inl ⟨rfl, ht⟩
    · simp [hr] at hf
    · simp [hr] at hf

/-! ### The token of an event -/

/-- An event moves exactly one token, on the channel that ST serves (R43). -/
theorem State.Event.token {s t : State} (h : s.Event t) :
    (s.st = .idle ∧ t.cmdHeld = false ∧ t.dinHeld = s.dinHeld ∧ ∃ c, s.TookCmd t c) ∨
    ((s.st = .encScan ∨ s.st = .decFetch) ∧ t.dinHeld = false ∧ t.cmdHeld = s.cmdHeld ∧ ∃ b, s.TookDin t b) ∨
    ((s.st = .encEmit ∨ s.st = .decExpand) ∧ s.SameCmd t ∧ s.SameDin t ∧ ∃ b, s.doutData = some b ∧ s.PutDout t b) ∨
    (s.st = .resp ∧ s.SameCmd t ∧ s.SameDin t ∧ s.PutRsp t s.status) := by
  cases h with
  | encode l q hs hc => exact .inl ⟨hs, rfl, rfl, _, State.startCommand_tookCmd l .encScan hc⟩
  | decode l q hs hc _ => exact .inl ⟨hs, rfl, rfl, _, State.startCommand_tookCmd l .decFetch hc⟩
  | refuse l q hs hc _ => exact .inl ⟨hs, rfl, rfl, _, State.popCmd_raiseMalformedInput_tookCmd hc⟩
  | scan b d hs _ hd =>
    obtain ⟨hcmd, hdin⟩ := s.popDin.encScanByte_held b
    exact .inr (.inl ⟨.inl hs, hdin, hcmd, b, State.encScanByte_takes hd b⟩)
  | emit hs =>
    obtain ⟨hcmd, hdin⟩ := s.serBeat_held
    have hput := s.serBeat_puts
    have ⟨_, hc, hd, _⟩ := hput
    exact .inr (.inr (.inl ⟨.inl hs, ⟨hc, hcmd⟩, ⟨hd, hdin⟩, _, State.doutData_encEmit hs, hput⟩))
  | fetch b d hs _ hd =>
    obtain ⟨hcmd, hdin⟩ := s.popDin.fetchByte_held b
    exact .inr (.inl ⟨.inr hs, hdin, hcmd, b, State.fetchByte_takes hd b⟩)
  | expand hs _ =>
    obtain ⟨hcmd, hdin⟩ := s.expandBeat_held
    have hput := s.expandBeat_puts
    have ⟨_, hc, hd, _⟩ := hput
    exact .inr (.inr (.inl ⟨.inr hs, ⟨hc, hcmd⟩, ⟨hd, hdin⟩, _, State.doutData_decExpand hs, hput⟩))
  | respond hs => exact .inr (.inr (.inr ⟨hs, ⟨rfl, rfl⟩, ⟨rfl, rfl⟩, s.respond_puts⟩))

theorem State.Event.not_noToken {s t : State} (h : s.Event t) : ¬ s.NoToken t := by
  rintro ⟨hcmd, hdin, hdout, hrsp⟩
  rcases h.token with ⟨_, _, _, c, hc, _⟩ | ⟨_, _, _, b, hb, _⟩ | ⟨_, _, _, b, _, hb, _⟩ | ⟨_, _, _, hv, _⟩
  · simp [hcmd] at hc
  · simp [hdin] at hb
  · simp [hdout] at hb
  · simp [hrsp] at hv

theorem State.Event.sameEnv {s t : State} (h : s.Event t) : s.SameEnv t := by
  cases h with
  | encode => exact ⟨rfl, rfl⟩
  | decode => exact ⟨rfl, rfl⟩
  | refuse => exact ⟨rfl, rfl⟩
  | scan b =>
    obtain ⟨_, _, henv, _⟩ := s.popDin.encScanByte_frame b
    exact henv
  | emit =>
    obtain ⟨_, _, _, _, _, henv⟩ := s.serBeat_frame
    exact henv
  | fetch b =>
    obtain ⟨_, _, henv, _⟩ := s.popDin.fetchByte_frame b
    exact henv
  | expand =>
    obtain ⟨_, _, _, _, henv⟩ := s.expandBeat_frame
    exact henv
  | respond => exact ⟨rfl, rfl⟩

end Sys2Proof.Machine

/-! PROOFS. O16, O15: the invariants of R32 hold after reset and every event keeps them. -/

namespace Sys2Proof.Machine

/-! ### What the invariants say in each state of ST -/

theorem State.inv_encScan {s : State} (hs : s.st = .encScan) :
    s.Inv ↔ 0 < s.rem.toNat ∧ (s.runValid = true → 1 ≤ s.runCount.toNat) ∧ s.serIdx = .high ∧ s.desIdx = .high ∧
      s.status ≠ .malformedInput := by
  simp [State.Inv, State.InvB, State.InvC, State.InvD, State.InvE, State.InvF, State.InvG, State.InvH, State.InvI,
    State.InvK, State.InvL, hs]

theorem State.inv_encEmit {s : State} (hs : s.st = .encEmit) :
    s.Inv ↔ (s.runValid = true → 1 ≤ s.runCount.toNat) ∧ 1 ≤ s.serCount.toNat ∧ s.desIdx = .high ∧
      (s.runValid = false → s.rem = 0) ∧ s.status ≠ .malformedInput := by
  simp [State.Inv, State.InvB, State.InvC, State.InvD, State.InvE, State.InvF, State.InvG, State.InvH, State.InvI,
    State.InvK, State.InvL, hs]

theorem State.inv_decFetch {s : State} (hs : s.st = .decFetch) :
    s.Inv ↔ 0 < s.rem.toNat ∧ s.runValid = false ∧ s.serIdx = .high ∧ (s.rem.toNat + s.desIdx.toNat) % 3 = 0 ∧
      s.status ≠ .malformedInput := by
  simp [State.Inv, State.InvB, State.InvC, State.InvD, State.InvE, State.InvF, State.InvG, State.InvH, State.InvI,
    State.InvK, State.InvL, hs]

theorem State.inv_decExpand {s : State} (hs : s.st = .decExpand) :
    s.Inv ↔ s.runValid = false ∧ s.serIdx = .high ∧ s.desIdx = .high ∧ s.rem.toNat % 3 = 0 ∧
      1 ≤ s.expCount.toNat ∧ s.status ≠ .malformedInput := by
  simp [State.Inv, State.InvB, State.InvC, State.InvD, State.InvE, State.InvF, State.InvG, State.InvH, State.InvI,
    State.InvK, State.InvL, hs]

theorem State.inv_idle_or_resp {s : State} (hs : s.st = .idle ∨ s.st = .resp) :
    s.Inv ↔ s.rem = 0 ∧ s.runValid = false ∧ s.serIdx = .high ∧ s.desIdx = .high := by
  rcases hs with hs | hs <;>
    simp [State.Inv, State.InvB, State.InvC, State.InvD, State.InvE, State.InvF, State.InvG, State.InvH, State.InvI,
      State.InvK, State.InvL, hs]

/-! ### Every event keeps them -/

theorem State.startCommand_inv (s : State) (l : Len) {p : Phase}
    (hp : p = .encScan ∨ p = .decFetch ∧ l.toNat % 3 = 0) : (s.startCommand l p).Inv := by
  have hst : (s.startCommand l p).st = if l.toNat = 0 then .resp else p := rfl
  by_cases hl : l.toNat = 0
  · rw [if_pos hl] at hst
    exact (State.inv_idle_or_resp (.inr hst)).2 ⟨len_eq_zero_iff.2 hl, rfl, rfl, rfl⟩
  · rw [if_neg hl] at hst
    have hpos : 0 < l.toNat := Nat.pos_of_ne_zero hl
    rcases hp with rfl | ⟨rfl, hm⟩
    · exact (State.inv_encScan hst).2 ⟨hpos, nofun, rfl, rfl, nofun⟩
    · exact (State.inv_decFetch hst).2 ⟨hpos, rfl, rfl, hm, nofun⟩

theorem State.raiseMalformedInput_inv (s : State) : s.raiseMalformedInput.Inv :=
  (State.inv_idle_or_resp (.inr rfl)).2 ⟨rfl, rfl, rfl, rfl⟩

theorem State.encAdvance_inv {s : State} (hrun : s.runValid = true → 1 ≤ s.runCount.toNat) (hser : s.serIdx = .high)
    (hdes : s.desIdx = .high) (hstatus : s.status ≠ .malformedInput) : s.encAdvance.Inv := by
  rcases s.encAdvance_cases with ⟨hr, he⟩ | ⟨hr, hv, he⟩ | ⟨hr, hv, he⟩ <;> rw [he]
  · exact (State.inv_encScan rfl).2 ⟨hr, hrun, hser, hdes, hstatus⟩
  · exact (State.inv_encEmit rfl).2 ⟨nofun, hrun hv, hdes, fun _ => hr, hstatus⟩
  · exact (State.inv_idle_or_resp (.inr rfl)).2 ⟨hr, hv, hser, hdes⟩

theorem State.decAdvance_inv {s : State} (hrun : s.runValid = false) (hser : s.serIdx = .high)
    (hdes : s.desIdx = .high) (hrem : s.rem.toNat % 3 = 0) (hstatus : s.status ≠ .malformedInput) :
    s.decAdvance.Inv := by
  rcases s.decAdvance_cases with ⟨hr, he⟩ | ⟨hr, he⟩ <;> rw [he]
  · exact (State.inv_decFetch rfl).2 ⟨hr, hrun, hser, by simpa [hdes, RecIdx.toNat] using hrem, hstatus⟩
  · exact (State.inv_idle_or_resp (.inr rfl)).2 ⟨hr, hrun, hser, hdes⟩

theorem State.scan_inv {s : State} (hs : s.st = .encScan) (h : s.Inv) (b : Byte) : (s.popDin.encScanByte b).Inv := by
  obtain ⟨_, hrun, hser, hdes, hstatus⟩ := (State.inv_encScan hs).1 h
  rcases s.popDin.encScanByte_cases b with ⟨_, he⟩ | ⟨_, _, hfull, he⟩ | ⟨hv, _, he⟩ <;> rw [he]
  · exact State.encAdvance_inv (fun _ => le_rfl) hser hdes hstatus
  · refine State.encAdvance_inv (fun _ => ?_) hser hdes hstatus
    rw [State.extendRun_runCount, count_succ_toNat hfull]
    exact Nat.le_add_left 1 _
  · exact (State.inv_encEmit rfl).2 ⟨fun _ => le_rfl, hrun hv, hdes, fun hf => absurd (hf.symm.trans hv) nofun, hstatus⟩

theorem State.emit_inv {s : State} (hs : s.st = .encEmit) (h : s.Inv) : s.serBeat.Inv := by
  obtain ⟨hrun, hcount, hdes, hlast, hstatus⟩ := (State.inv_encEmit hs).1 h
  cases hi : s.serIdx with
  | high => rw [State.serBeat_high hi]; exact (State.inv_encEmit (by exact hs)).2 ⟨hrun, hcount, hdes, hlast, hstatus⟩
  | low => rw [State.serBeat_low hi]; exact (State.inv_encEmit (by exact hs)).2 ⟨hrun, hcount, hdes, hlast, hstatus⟩
  | value => rw [State.serBeat_value hi]; exact State.encAdvance_inv hrun rfl hdes hstatus

theorem State.fetch_inv {s : State} (hs : s.st = .decFetch) (h : s.Inv) (b : Byte) : (s.popDin.fetchByte b).Inv := by
  obtain ⟨hpos, hrun, hser, hrem, hstatus⟩ := (State.inv_decFetch hs).1 h
  have hpred : s.popDin.rem.toNat = s.rem.toNat - 1 := lenPred_toNat _
  cases hi : s.desIdx with
  | high =>
    simp only [hi, RecIdx.toNat] at hrem
    rw [State.fetchByte_high (s := s.popDin) b hi]
    have hmore : 0 < s.popDin.rem.toNat := by omega
    have hmod : (s.popDin.rem.toNat + 1) % 3 = 0 := by omega
    exact (State.inv_decFetch (by exact hs)).2 ⟨hmore, hrun, hser, hmod, hstatus⟩
  | low =>
    simp only [hi, RecIdx.toNat] at hrem
    rw [State.fetchByte_low (s := s.popDin) b hi]
    have hmore : 0 < s.popDin.rem.toNat := by omega
    have hmod : (s.popDin.rem.toNat + 2) % 3 = 0 := by omega
    exact (State.inv_decFetch (by exact hs)).2 ⟨hmore, hrun, hser, hmod, hstatus⟩
  | value =>
    simp only [hi, RecIdx.toNat] at hrem
    have hmod : s.popDin.rem.toNat % 3 = 0 := by omega
    rcases State.fetchByte_value (s := s.popDin) b hi with ⟨hc, he⟩ | ⟨_, he⟩ <;> rw [he]
    · exact (State.inv_decExpand rfl).2 ⟨hrun, hser, rfl, hmod, hc, hstatus⟩
    · exact State.decAdvance_inv hrun hser rfl hmod hstatus

theorem State.expand_inv {s : State} (hs : s.st = .decExpand) (h : s.Inv) : s.expandBeat.Inv := by
  obtain ⟨hrun, hser, hdes, hrem, hcount, hstatus⟩ := (State.inv_decExpand hs).1 h
  rcases s.expandBeat_cases with ⟨_, he⟩ | ⟨hmore, he⟩ <;> rw [he]
  · exact State.decAdvance_inv hrun hser hdes hrem hstatus
  · have hpos : 1 ≤ (s.expCount - 1).toNat :=
      Nat.pos_of_ne_zero fun hz => hmore (BitVec.eq_of_toNat_eq (by simpa using hz))
    exact (State.inv_decExpand (by exact hs)).2 ⟨hrun, hser, hdes, hrem, hpos, hstatus⟩

theorem State.respond_inv {s : State} (hs : s.st = .resp) (h : s.Inv) : s.respond.Inv :=
  (State.inv_idle_or_resp (.inl rfl)).2 ((State.inv_idle_or_resp (.inr hs)).1 h)

theorem State.Event.inv {s t : State} (he : s.Event t) (h : s.Inv) : t.Inv := by
  cases he with
  | encode l => exact s.startCommand_inv l (.inl rfl)
  | decode l _ _ _ hm => exact s.startCommand_inv l (.inr ⟨rfl, hm⟩)
  | refuse => exact s.popCmd.raiseMalformedInput_inv
  | scan b _ hs => exact State.scan_inv hs h b
  | emit hs => exact State.emit_inv hs h
  | fetch b _ hs => exact State.fetch_inv hs h b
  | expand hs => exact State.expand_inv hs h
  | respond hs => exact State.respond_inv hs h

/-- A predicate that every event keeps is kept by every operation. -/
theorem exec_keeps {P : State → Prop} (hkeep : ∀ {s t : State}, s.Event t → P s → P t) {i : Instr} {s t : State}
    (h : exec i s = .next t) (hs : P s) : P t := by
  have hrun := exec_events h
  clear h
  induction hrun with
  | refl => exact hs
  | tail _ he ih => exact hkeep he ih

theorem State.resetEdge_inv (s : State) (e : Edge) : (s.resetEdge e).Inv :=
  (State.inv_idle_or_resp (.inl rfl)).2 ⟨rfl, rfl, rfl, rfl⟩

/-- Settles O15: after reset ST is IDLE, and what the invariants say there are reset values. -/
theorem invariantHoldsAtReset : Obligations.InvariantHoldsAtReset :=
  (State.inv_idle_or_resp (.inl rfl)).2 ⟨rfl, rfl, rfl, rfl⟩

/-- Settles O16: every event keeps the invariants, operations and steps are made of events, and a reset edge sets them
up. -/
theorem everyStepKeepsTheInvariant : Obligations.EveryStepKeepsTheInvariant := by
  unfold Obligations.EveryStepKeepsTheInvariant
  refine ⟨fun i s t hinv h => exec_keeps State.Event.inv h hinv, fun s t hinv h => ?_⟩
  rcases step_next h with ⟨_, rfl⟩ | ⟨_, rfl | he⟩
  · exact State.resetEdge_inv _ _
  · exact State.tick_inv.2 hinv
  · exact he.inv (State.tick_inv.2 hinv)

end Sys2Proof.Machine

/-! PROOFS. O14, O13, O12: every operation and every step answers a next state, a made handshake moves a token, and
without one nothing moves (R84, R159, R165). -/

namespace Sys2Proof.Machine

/-! ### Nothing stops the machine -/

theorem execEncode_total (len : Nat) (s : State) : ∃ t, execEncode len s = .next t := by
  unfold execEncode
  split
  · exact ⟨_, rfl⟩
  · exact ⟨_, rfl⟩

theorem execDecode_total (len : Nat) (s : State) : ∃ t, execDecode len s = .next t := by
  unfold execDecode
  split
  · split
    · exact ⟨_, rfl⟩
    · exact ⟨_, rfl⟩
  · exact ⟨_, rfl⟩

theorem execEncTake_total (s : State) : ∃ t, execEncTake s = .next t := by
  unfold execEncTake
  split
  · split
    · exact ⟨_, rfl⟩
    · exact ⟨_, rfl⟩
  · exact ⟨_, rfl⟩

theorem execDesTake_total (s : State) : ∃ t, execDesTake s = .next t := by
  unfold execDesTake
  split
  · split
    · exact ⟨_, rfl⟩
    · exact ⟨_, rfl⟩
  · exact ⟨_, rfl⟩

/-- An operation guarded by one test has a next state either way. -/
theorem next_or_next (p : Prop) [Decidable p] (t u : State) :
    ∃ v, (if p then .next t else .next u : Result) = .next v :=
  ⟨if p then t else u, (apply_ite _ _ _ _).symm⟩

theorem execRecord_total (c : Count) (v : Byte) (s : State) : ∃ t, execRecord c v s = .next t := by
  unfold execRecord
  split
  · exact ⟨_, rfl⟩
  · exact next_or_next _ _ _

theorem exec_total (i : Instr) (s : State) : ∃ t, exec i s = .next t := by
  cases i with
  | encode len => exact execEncode_total len s
  | decode len => exact execDecode_total len s
  | encTake => exact execEncTake_total s
  | serPut => exact next_or_next _ _ _
  | desTake => exact execDesTake_total s
  | expPut => exact next_or_next _ _ _
  | ctlResp => exact next_or_next _ _ _
  | record c v => exact execRecord_total c v s
  | rspOk => exact next_or_next _ _ _
  | rspMalformed => exact next_or_next _ _ _

theorem step_total (s : State) : ∃ t, step s = .next t := by
  unfold step clockEdge
  split
  · exact ⟨_, rfl⟩
  · split
    · exact exec_total _ _
    · exact ⟨_, rfl⟩

/-- Settles O14: each meaning answers a next state in each of its branches, and so does the step. -/
theorem nothingFaultsOrIsRefused : Obligations.NothingFaultsOrIsRefused := by
  unfold Obligations.NothingFaultsOrIsRefused
  exact fun s => ⟨step_total s, fun i => exec_total i s⟩

/-! ### A made handshake moves a token -/

/-- The channel that ST serves is the one that can transfer (R43). -/
theorem State.handshake_encScan {s : State} (e : Edge) (hs : s.st = .encScan) : s.handshake e = s.dinValid e := by
  simp [State.handshake, State.cmdReady, State.dinReady, State.doutValid, State.rspValid, hs]

theorem State.handshake_decFetch {s : State} (e : Edge) (hs : s.st = .decFetch) : s.handshake e = s.dinValid e := by
  simp [State.handshake, State.cmdReady, State.dinReady, State.doutValid, State.rspValid, hs]

theorem State.handshake_encEmit {s : State} (e : Edge) (hs : s.st = .encEmit) : s.handshake e = e.doutReady := by
  simp [State.handshake, State.cmdReady, State.dinReady, State.doutValid, State.rspValid, hs]

theorem State.handshake_decExpand {s : State} (e : Edge) (hs : s.st = .decExpand) : s.handshake e = e.doutReady := by
  simp [State.handshake, State.cmdReady, State.dinReady, State.doutValid, State.rspValid, hs]

theorem State.handshake_resp {s : State} (e : Edge) (hs : s.st = .resp) : s.handshake e = e.rspReady := by
  simp [State.handshake, State.cmdReady, State.dinReady, State.doutValid, State.rspValid, hs]

theorem State.dinValid_iff {s : State} {e : Edge} :
    s.dinValid e = true ↔ (s.dinHeld = true ∨ e.dinOffer = true) ∧ ∃ b d, s.din = b :: d := by
  simp [State.dinValid, List.ne_nil_iff_exists_cons]

/-- The counters that the operations test are not 0 where ST selects them (R32 I-c, I-i). -/
def State.CountersReady (s : State) : Prop :=
  (s.st = .encScan ∨ s.st = .decFetch → 0 < s.rem.toNat) ∧ (s.st = .decExpand → 0 < s.expCount.toNat)

theorem State.Inv.countersReady {s : State} (h : s.Inv) : s.CountersReady := by
  obtain ⟨_, hc, _, _, _, _, _, hi, _⟩ := h
  exact ⟨hc, hi⟩

/-- Outside IDLE the operation selected is the one the code of ST decodes to (R65). -/
theorem State.selected_of_code {s : State} {i : Instr} (h : decodeStep s.st.code = .ok i) : s.selected = some i := by
  rw [State.selected, h]

/-- An event is what the selected operation does. -/
theorem State.Event.exec_selected {s t : State} (h : s.Event t) :
    ∃ i, s.selected = some i ∧ exec i s = .next t := by
  cases h with
  | encode l q hs hc =>
    exact ⟨.encode l.toNat, State.selected_idle hs hc, execEncode_offered (State.offeredLen_head hs hc)⟩
  | decode l q hs hc hm =>
    exact ⟨.decode l.toNat, State.selected_idle hs hc, execDecode_offered_wellFormed (State.offeredLen_head hs hc) hm⟩
  | refuse l q hs hc hm =>
    exact ⟨.decode l.toNat, State.selected_idle hs hc, execDecode_offered_malformed (State.offeredLen_head hs hc) hm⟩
  | scan b d hs hr hd => exact ⟨.encTake, State.selected_of_code (by rw [hs]; rfl), execEncTake_takes hs hr hd⟩
  | emit hs => exact ⟨.serPut, State.selected_of_code (by rw [hs]; rfl), execSerPut_puts hs⟩
  | fetch b d hs hr hd => exact ⟨.desTake, State.selected_of_code (by rw [hs]; rfl), execDesTake_takes hs hr hd⟩
  | expand hs hc => exact ⟨.expPut, State.selected_of_code (by rw [hs]; rfl), execExpPut_puts hs hc⟩
  | respond hs => exact ⟨.ctlResp, State.selected_of_code (by rw [hs]; rfl), execCtlResp_resp hs⟩

/-- What happens in a state is one thing. -/
theorem State.Event.unique {s t u : State} (ht : s.Event t) (hu : s.Event u) : t = u := by
  obtain ⟨i, hi, hexec⟩ := ht.exec_selected
  obtain ⟨j, hj, hexec'⟩ := hu.exec_selected
  obtain rfl := Option.some.inj (hi.symm.trans hj)
  exact Host.Outcome.next.inj (hexec.symm.trans hexec')

/-- With its handshake made, what can happen is what the step does. -/
theorem step_of_event {s t : State} (hr : s.edge.rst = false) (hh : s.handshake s.edge = true) (he : s.tick.Event t) :
    step s = .next t := by
  obtain ⟨i, hi, hexec⟩ := he.exec_selected
  exact (step_performs hr hh hi).trans hexec

theorem State.exists_command_event {s : State} {c : CmdToken} {q : List CmdToken} (hs : s.st = .idle)
    (hc : s.cmd = c :: q) : ∃ t, s.Event t := by
  obtain ⟨op, l⟩ := c
  cases op with
  | encode => exact ⟨_, .encode l q hs hc⟩
  | decode =>
    by_cases hm : l.toNat % 3 = 0
    · exact ⟨_, .decode l q hs hc hm⟩
    · exact ⟨_, .refuse l q hs hc hm⟩

/-- A handshake on the channel that ST serves, with the counter not 0, is all that an event needs. -/
theorem State.exists_event {s : State} {e : Edge} (hc : s.CountersReady) (hh : s.handshake e = true) :
    ∃ t, s.Event t := by
  obtain ⟨hrem, hexp⟩ := hc
  cases hs : s.st with
  | idle =>
    obtain ⟨_, c, q, hq⟩ := State.cmdValid_iff.1 ((State.handshake_idle _ hs).symm.trans hh)
    exact State.exists_command_event hs hq
  | encScan =>
    obtain ⟨_, b, d, hd⟩ := State.dinValid_iff.1 ((State.handshake_encScan _ hs).symm.trans hh)
    exact ⟨_, .scan b d hs (hrem (.inl hs)) hd⟩
  | encEmit => exact ⟨_, .emit hs⟩
  | decFetch =>
    obtain ⟨_, b, d, hd⟩ := State.dinValid_iff.1 ((State.handshake_decFetch _ hs).symm.trans hh)
    exact ⟨_, .fetch b d hs (hrem (.inr hs)) hd⟩
  | decExpand => exact ⟨_, .expand hs (hexp hs)⟩
  | resp => exact ⟨_, .respond hs⟩

theorem State.tick_cmdValid (s : State) : s.tick.cmdValid s.edge = s.cmdValid s.edge := by
  simp [State.cmdValid]

theorem State.tick_dinValid (s : State) : s.tick.dinValid s.edge = s.dinValid s.edge := by
  simp [State.dinValid]

/-- What an edge raises is raised again at another edge like it, so that edge changes nothing. -/
theorem State.tick_handshake (s : State) : s.tick.handshake s.edge = s.handshake s.edge := by
  rw [State.handshake, State.tick_cmdValid, State.tick_dinValid]
  rfl

/-- What ST selects, on its own channel and with its counter not 0, happens: the step is an event. -/
theorem step_event_of_handshake {s : State} (hc : s.CountersReady) (hr : s.edge.rst = false)
    (hh : s.handshake s.edge = true) : ∃ t, step s = .next t ∧ s.tick.Event t := by
  obtain ⟨t, he⟩ := State.exists_event (s := s.tick) hc (s.tick_handshake.trans hh)
  exact ⟨t, step_of_event hr hh he, he⟩

/-- Settles O13: with the invariant the counters are not 0, so the step is an event, and an event moves a token. -/
theorem willingPartnerMeansProgress : Obligations.WillingPartnerMeansProgress := by
  unfold Obligations.WillingPartnerMeansProgress
  intro s hinv hr hh
  obtain ⟨t, ht, he⟩ := step_event_of_handshake hinv.countersReady hr hh
  exact ⟨t, ht, he.not_noToken⟩

/-! ### Without a handshake nothing moves -/

/-- Waiting at an edge that comes again and again lasts for ever. -/
theorem runSteps_stuck (n : Nat) {s : State} (hsched : s.sched = []) (hstuck : s.Stuck s.rest) :
    ∃ t, runSteps n s = .next t ∧ s.SameRegs t ∧ s.NoToken t ∧ t.Stuck t.rest := by
  induction n generalizing s with
  | zero => exact ⟨s, rfl, by simp [State.SameRegs], .refl s, hstuck⟩
  | succ n ih =>
    obtain ⟨hidle, hrst, hhand⟩ := hstuck
    have hedge : s.edge = s.rest := State.edge_of_sched_nil hsched
    have hstep : step s = .next s.tick := step_waits (hedge ▸ hrst) (hedge ▸ hhand)
    have hhand' : s.tick.handshake s.tick.rest = false := by
      rw [State.tick_rest, ← hedge, State.tick_handshake, hedge, hhand]
    obtain ⟨t, ht, hregs, htok, hst⟩ := ih (s := s.tick) (by simp [hsched]) ⟨hidle, hrst, hhand'⟩
    exact ⟨t, (runSteps_succ hstep).trans ht, hregs, htok, hst⟩

/-- Settles O12: a step without a handshake is `tick`, and with no other edge to come the next one is as the last. -/
theorem waitingMovesNothing : Obligations.WaitingMovesNothing := by
  unfold Obligations.WaitingMovesNothing
  exact ⟨fun s ⟨hr, hh⟩ => ⟨step_waits hr hh, s.tick_sameRegs, s.tick_noToken⟩,
    fun _ n hsched hstuck => runSteps_stuck n hsched hstuck⟩

end Sys2Proof.Machine

/-! PROOFS. O8, O10, O11: what an edge does with reset, with the channels, and whose operation it performs (R41, R42,
R62, R65, R170). -/

namespace Sys2Proof.Machine

/-! ### Reset -/

theorem step_reset {s : State} (hr : s.edge.rst = true) : step s = .next (s.tick.resetEdge s.edge) := if_pos hr

/-- A host that withdraws nothing keeps its command on offer over a reset edge (log 6). -/
theorem State.resetEdge_cmdValid {s : State} (e : Edge) (hw : s.edge.cmdWithdraw = 0)
    (h : s.cmdValid s.edge = true) : (s.tick.resetEdge s.edge).cmdValid e = true := by
  obtain ⟨hoffer, c, q, hc⟩ := State.cmdValid_iff.1 h
  exact State.cmdValid_iff.2 ⟨.inl (by simpa [State.resetEdge, hw] using hoffer), c, q,
    by simp [State.resetEdge, hw, hc]⟩

/-- A provider that withdraws nothing keeps its byte on offer over a reset edge (log 6). -/
theorem State.resetEdge_dinValid {s : State} (e : Edge) (hw : s.edge.dinWithdraw = 0)
    (h : s.dinValid s.edge = true) : (s.tick.resetEdge s.edge).dinValid e = true := by
  obtain ⟨hoffer, b, d, hd⟩ := State.dinValid_iff.1 h
  exact State.dinValid_iff.2 ⟨.inl (by simpa [State.resetEdge, hw] using hoffer), b, d,
    by simp [State.resetEdge, hw, hd]⟩

/-- Settles O8: the step is the reset edge, whose registers are those of R34. -/
theorem resetEdgeFromAnyState : Obligations.ResetEdgeFromAnyState := by
  unfold Obligations.ResetEdgeFromAnyState
  exact fun s hr => ⟨_, step_reset hr, ⟨rfl, rfl, rfl, rfl, rfl, rfl, rfl, rfl, rfl, rfl, rfl, rfl, rfl⟩, rfl, rfl, rfl,
    rfl, rfl, rfl, State.resetEdge_cmdValid _, State.resetEdge_dinValid _⟩

/-! ### The channels -/

theorem State.ChannelLaw.refl (s : State) : s.ChannelLaw s := by simp [State.ChannelLaw]

theorem State.ChannelLaw.trans {s t u : State} (h : s.ChannelLaw t) (g : t.ChannelLaw u) : s.ChannelLaw u := by
  obtain ⟨⟨c, hc⟩, ⟨d, hd⟩, ⟨o, ho⟩, ⟨r, hr⟩⟩ := h
  obtain ⟨⟨c', hc'⟩, ⟨d', hd'⟩, ⟨o', ho'⟩, ⟨r', hr'⟩⟩ := g
  exact ⟨⟨c ++ c', by rw [hc, hc', List.append_assoc]⟩, ⟨d ++ d', by rw [hd, hd', List.append_assoc]⟩,
    ⟨o ++ o', by rw [ho', ho, List.append_assoc]⟩, ⟨r ++ r', by rw [hr', hr, List.append_assoc]⟩⟩

theorem State.Event.channelLaw {s t : State} (h : s.Event t) : s.ChannelLaw t := by
  rcases h.token with ⟨_, _, _, c, hc, hd, ho, hr⟩ | ⟨_, _, _, b, hd, hc, ho, hr⟩ |
    ⟨_, _, _, b, _, ho, hc, hd, hr⟩ | ⟨_, _, _, hr, hc, hd, ho⟩
  · exact ⟨⟨[c], hc⟩, ⟨[], hd.symm⟩, ⟨[], by simp [ho]⟩, ⟨[], by simp [hr]⟩⟩
  · exact ⟨⟨[], hc.symm⟩, ⟨[b], hd⟩, ⟨[], by simp [ho]⟩, ⟨[], by simp [hr]⟩⟩
  · exact ⟨⟨[], hc.symm⟩, ⟨[], hd.symm⟩, ⟨[b], ho⟩, ⟨[], by simp [hr]⟩⟩
  · exact ⟨⟨[], hc.symm⟩, ⟨[], hd.symm⟩, ⟨[], by simp [ho]⟩, ⟨[s.status], hr⟩⟩

theorem exec_channelLaw {i : Instr} {s t : State} (h : exec i s = .next t) : s.ChannelLaw t :=
  exec_keeps (P := s.ChannelLaw) (fun he hs => hs.trans he.channelLaw) h (.refl s)

/-- A command that an event does not take is held as before. -/
theorem State.Event.cmdHeld {s t : State} (h : s.Event t) (hc : t.cmd = s.cmd) : t.cmdHeld = s.cmdHeld := by
  rcases h.token with ⟨_, _, _, c, htook, _⟩ | ⟨_, _, hheld, _⟩ | ⟨_, ⟨_, hheld⟩, _⟩ | ⟨_, ⟨_, hheld⟩, _⟩
  · simp [hc] at htook
  all_goals exact hheld

/-- A byte that an event does not take is held as before. -/
theorem State.Event.dinHeld {s t : State} (h : s.Event t) (hd : t.din = s.din) : t.dinHeld = s.dinHeld := by
  rcases h.token with ⟨_, _, hheld, _⟩ | ⟨_, _, _, b, htook, _⟩ | ⟨_, _, ⟨_, hheld⟩, _⟩ | ⟨_, _, ⟨_, hheld⟩, _⟩
  · exact hheld
  · simp [hd] at htook
  all_goals exact hheld

/-- Where the consumer's or the host's token is on offer, an event is its transfer. -/
theorem State.Event.moves_output {s t : State} (h : s.Event t) :
    (s.doutValid = true → t.dout ≠ s.dout) ∧ (s.rspValid = true → t.rsp ≠ s.rsp) := by
  rcases h.token with ⟨hs, _⟩ | ⟨hs, _⟩ | ⟨hs, _, _, b, _, hput, _⟩ | ⟨hs, _, _, hput, _⟩
  · simp [State.doutValid, State.rspValid, hs]
  · rcases hs with hs | hs <;> simp [State.doutValid, State.rspValid, hs]
  · rcases hs with hs | hs <;> simp [State.rspValid, hs, hput]
  · simp [State.doutValid, hs, hput]

/-- Over a step without reset, an offered token that is not transferred stays on offer, the same one (R42, R185). -/
theorem step_keeps_offers {s t : State} (hr : s.edge.rst = false) (h : step s = .next t) :
    (s.cmdValid s.edge = true → t.cmd = s.cmd → t.cmdValid t.edge = true) ∧
    (s.dinValid s.edge = true → t.din = s.din → t.dinValid t.edge = true) ∧
    (s.doutValid = true → t.dout = s.dout → t.doutValid = true ∧ t.doutData = s.doutData) ∧
    (s.rspValid = true → t.rsp = s.rsp → t.rspValid = true ∧ t.rspStatus = s.rspStatus) := by
  obtain ⟨hcmd, hdin⟩ := s.tick_valid
  rcases step_event hr h with rfl | he
  · refine ⟨fun hv _ => ?_, fun hv _ => ?_, fun hv _ => ⟨hv, rfl⟩, fun hv _ => ⟨hv, rfl⟩⟩
    · exact State.cmdValid_iff.2 ⟨.inl (hcmd hv), (State.cmdValid_iff.1 hv).2⟩
    · exact State.dinValid_iff.2 ⟨.inl (hdin hv), (State.dinValid_iff.1 hv).2⟩
  · obtain ⟨hdout, hrsp⟩ := he.moves_output
    refine ⟨fun hv hc => ?_, fun hv hd => ?_, fun hv ho => absurd ho (hdout hv), fun hv ho => absurd ho (hrsp hv)⟩
    · exact State.cmdValid_iff.2 ⟨.inl ((he.cmdHeld hc).trans (hcmd hv)), hc ▸ (State.cmdValid_iff.1 hv).2⟩
    · exact State.dinValid_iff.2 ⟨.inl ((he.dinHeld hd).trans (hdin hv)), hd ▸ (State.dinValid_iff.1 hv).2⟩

/-- Settles O10: every event keeps the channel law, and lets go only of what it transfers. -/
theorem operationsKeepTheChannelLaw : Obligations.OperationsKeepTheChannelLaw := by
  unfold Obligations.OperationsKeepTheChannelLaw
  refine ⟨fun _ _ _ => exec_channelLaw, fun s t hr h => ⟨?_, step_keeps_offers hr h⟩⟩
  rcases step_event hr h with rfl | he
  · exact .refl s
  · exact State.Event.channelLaw (s := s.tick) he

/-! ### The operation a step performs -/

theorem decodeCmd_encode {lw len : Nat} (h : len < 2 ^ lw) : decodeCmd lw len = .ok (.encode len) := by
  have hdiv : len / 2 ^ lw = 0 := Nat.div_eq_of_lt h
  simp [decodeCmd, hdiv, Nat.mod_eq_of_lt h]

theorem decodeCmd_decode {lw len : Nat} (h : len < 2 ^ lw) : decodeCmd lw (2 ^ lw + len) = .ok (.decode len) := by
  have hdiv : (2 ^ lw + len) / 2 ^ lw = 1 := by rw [Nat.add_div_left _ (Nat.two_pow_pos _), Nat.div_eq_of_lt h]
  simp [decodeCmd, hdiv, Nat.mod_eq_of_lt h]

/-- The wires of a command token decode to the operation it selects (R62, R67). -/
theorem decodeWord_cmd_word (c : CmdToken) : decodeWord .cmd c.word = .ok c.instr := by
  obtain ⟨op, l⟩ := c
  cases op with
  | encode =>
    simp only [CmdToken.word, Op.bit, Nat.zero_mul, Nat.zero_add]
    exact decodeCmd_encode l.isLt
  | decode =>
    simp only [CmdToken.word, Op.bit, Nat.one_mul]
    exact decodeCmd_decode l.isLt

/-- Settles O11: outside IDLE the code of ST selects the operation, in IDLE the command's wires decode to it. -/
theorem stepRunsTheDecodedOperation : Obligations.StepRunsTheDecodedOperation := by
  unfold Obligations.StepRunsTheDecodedOperation
  refine ⟨fun s i hr _ hh hi => step_performs hr hh (State.selected_of_code hi),
    fun s c q i hr hs hc hoffer hi => ?_⟩
  obtain rfl : c.instr = i := Except.ok.inj ((decodeWord_cmd_word c).symm.trans hi)
  have hh : s.handshake s.edge = true :=
    (State.handshake_idle _ hs).trans (State.cmdValid_iff.2 ⟨hoffer, c, q, hc⟩)
  exact step_performs hr hh (State.selected_idle hs hc)

end Sys2Proof.Machine

/-! PROOFS. O31 to O35, O27: what each operation leaves unchanged (10_state.md section 1, the column of writers). -/

namespace Sys2Proof.Machine

/-! ### Nothing changed -/

theorem State.SameCmd.refl (s : State) : s.SameCmd s := ⟨rfl, rfl⟩

theorem State.SameDin.refl (s : State) : s.SameDin s := ⟨rfl, rfl⟩

theorem State.SameEnv.refl (s : State) : s.SameEnv s := ⟨rfl, rfl⟩

theorem State.SameEncoder.refl (s : State) : s.SameEncoder s := ⟨rfl, rfl, rfl, rfl, rfl, rfl⟩

theorem State.SameDecoder.refl (s : State) : s.SameDecoder s := ⟨rfl, rfl, rfl, rfl⟩

/-! ### The commands -/

theorem execEncode_frame {len : Nat} {s t : State} (h : execEncode len s = .next t) :
    t.runValue = s.runValue ∧ t.runCount = s.runCount ∧ t.serCount = s.serCount ∧ t.serValue = s.serValue ∧
    t.desHi = s.desHi ∧ t.expCount = s.expCount ∧ t.expValue = s.expValue ∧
    (s.SameCmd t ∨ s.st = .idle ∧ t.cmdHeld = false ∧ ∃ l : Len, l.toNat = len ∧ s.cmd = ⟨.encode, l⟩ :: t.cmd) ∧
    s.SameDin t ∧ t.dout = s.dout ∧ t.rsp = s.rsp ∧ s.SameEnv t := by
  rcases execEncode_next h with rfl | ⟨hs, l, q, hl, hc, rfl⟩
  · exact ⟨rfl, rfl, rfl, rfl, rfl, rfl, rfl, .inl (.refl t), .refl t, rfl, rfl, .refl t⟩
  · exact ⟨rfl, rfl, rfl, rfl, rfl, rfl, rfl, .inr ⟨hs, rfl, l, hl, by simp [hc]⟩, ⟨rfl, rfl⟩, rfl, rfl, rfl, rfl⟩

theorem execDecode_frame {len : Nat} {s t : State} (h : execDecode len s = .next t) :
    t.runValue = s.runValue ∧ t.runCount = s.runCount ∧ t.serCount = s.serCount ∧ t.serValue = s.serValue ∧
    t.desHi = s.desHi ∧ t.expCount = s.expCount ∧ t.expValue = s.expValue ∧
    (s.SameCmd t ∨ s.st = .idle ∧ t.cmdHeld = false ∧ ∃ l : Len, l.toNat = len ∧ s.cmd = ⟨.decode, l⟩ :: t.cmd) ∧
    s.SameDin t ∧ t.dout = s.dout ∧ t.rsp = s.rsp ∧ s.SameEnv t := by
  rcases execDecode_next h with rfl | ⟨hs, l, q, hl, hc, ⟨_, rfl⟩ | ⟨_, rfl⟩⟩
  · exact ⟨rfl, rfl, rfl, rfl, rfl, rfl, rfl, .inl (.refl t), .refl t, rfl, rfl, .refl t⟩
  · exact ⟨rfl, rfl, rfl, rfl, rfl, rfl, rfl, .inr ⟨hs, rfl, l, hl, by simp [hc, State.raiseMalformedInput_eq]⟩,
      ⟨rfl, rfl⟩, rfl, rfl, rfl, rfl⟩
  · exact ⟨rfl, rfl, rfl, rfl, rfl, rfl, rfl, .inr ⟨hs, rfl, l, hl, by simp [hc]⟩, ⟨rfl, rfl⟩, rfl, rfl, rfl, rfl⟩

/-- Settles O31: a command writes only its own registers, as its whole effect shows. -/
theorem commandFrame : Obligations.CommandFrame := by
  unfold Obligations.CommandFrame
  rintro i len s t (rfl | rfl) h
  · simpa using execEncode_frame h
  · simpa using execDecode_frame h

/-! ### ENC.TAKE and SER.PUT -/

/-- Settles O32: the byte taken goes through `encScanByte`, whose frame the laws give. -/
theorem encTakeFrame : Obligations.EncTakeFrame := by
  unfold Obligations.EncTakeFrame
  intro s t h
  rcases execEncTake_next h with rfl | ⟨_, hr, b, d, hd, rfl⟩
  · exact ⟨rfl, .refl t, .refl t, rfl, rfl, .refl t, fun _ => ⟨rfl, rfl, rfl⟩, .inl ⟨.refl t, rfl⟩⟩
  · obtain ⟨hstatus, hdec, henv, hrem, hlatch⟩ := s.popDin.encScanByte_frame b
    obtain ⟨hcmdHeld, hdinHeld⟩ := s.popDin.encScanByte_held b
    obtain ⟨htook, hcmd, hdout, hrsp⟩ := State.encScanByte_takes hd b
    refine ⟨hstatus, hdec, ⟨hcmd, hcmdHeld⟩, hdout, hrsp, henv, hlatch, .inr ⟨?_, hdinHeld, ?_⟩⟩
    · rw [htook, List.tail_cons]
    · rw [hrem, State.popDin_rem, lenPred_eq_sub hr]

/-- EncAdvance reloads the latch only with an open run and no input left (R98). -/
theorem State.encAdvance_latch {s : State} (h : 0 < s.rem.toNat ∨ s.runValid = false) :
    s.encAdvance.serCount = s.serCount ∧ s.encAdvance.serValue = s.serValue ∧ s.encAdvance.runValid = s.runValid := by
  rcases s.encAdvance_cases with ⟨_, he⟩ | ⟨hr, hv, _⟩ | ⟨_, _, he⟩
  · exact he ▸ ⟨rfl, rfl, rfl⟩
  · simp [hr, hv] at h
  · exact he ▸ ⟨rfl, rfl, rfl⟩

theorem State.serBeat_latch {s : State} (h : s.serIdx ≠ .value ∨ 0 < s.rem.toNat ∨ s.runValid = false) :
    s.serBeat.serCount = s.serCount ∧ s.serBeat.serValue = s.serValue ∧ s.serBeat.runValid = s.runValid := by
  cases hi : s.serIdx with
  | high => exact State.serBeat_high hi ▸ ⟨rfl, rfl, rfl⟩
  | low => exact State.serBeat_low hi ▸ ⟨rfl, rfl, rfl⟩
  | value =>
    rw [State.serBeat_value hi]
    exact State.encAdvance_latch (s := (s.putDout s.serValue).setSerIdx .high) (h.resolve_left (not_not_intro hi))

/-- Settles O33: the put is a `serBeat`, which puts the byte SER_IDX picks and flushes only after the third. -/
theorem serPutFrame : Obligations.SerPutFrame := by
  unfold Obligations.SerPutFrame
  intro s t h
  rcases execSerPut_next h with rfl | ⟨_, rfl⟩
  · exact ⟨rfl, rfl, rfl, rfl, .refl t, .refl t, .refl t, rfl, .refl t, .inl rfl, fun _ => ⟨rfl, rfl, rfl⟩⟩
  · obtain ⟨hrem, hstatus, hvalue, hcount, hdec, henv⟩ := s.serBeat_frame
    obtain ⟨hcmdHeld, hdinHeld⟩ := s.serBeat_held
    obtain ⟨hdout, hcmd, hdin, hrsp⟩ := s.serBeat_puts
    exact ⟨hrem, hstatus, hvalue, hcount, hdec, ⟨hcmd, hcmdHeld⟩, ⟨hdin, hdinHeld⟩, hrsp, henv, .inr hdout,
      State.serBeat_latch⟩

/-! ### DES.TAKE and EXP.PUT -/

/-- Each sub-index names the decoder register that its byte writes; only the third moves ST (R120). -/
theorem State.fetchByte_unnamed (s : State) (b : Byte) :
    (s.desIdx ≠ .high → (s.fetchByte b).desHi = s.desHi) ∧ (s.desIdx ≠ .low → (s.fetchByte b).expCount = s.expCount) ∧
    (s.desIdx ≠ .value → (s.fetchByte b).expValue = s.expValue ∧ (s.fetchByte b).st = s.st) := by
  cases hi : s.desIdx with
  | high => exact State.fetchByte_high b hi ▸ ⟨fun h => absurd rfl h, fun _ => rfl, fun _ => ⟨rfl, rfl⟩⟩
  | low => exact State.fetchByte_low b hi ▸ ⟨fun _ => rfl, fun h => absurd rfl h, fun _ => ⟨rfl, rfl⟩⟩
  | value =>
    rcases State.fetchByte_value b hi with ⟨_, he⟩ | ⟨_, he⟩ <;> rw [he]
    · exact ⟨fun _ => rfl, fun _ => rfl, fun h => absurd rfl h⟩
    · obtain ⟨_, _, _, ⟨_, hhi, hcount, _⟩, _⟩ := ((s.setExpValue b).setDesIdx .high).decAdvance_frame
      exact ⟨fun _ => hhi, fun _ => hcount, fun h => absurd rfl h⟩

theorem execDesTake_frame {s t : State} (h : execDesTake s = .next t) :
    t.status = s.status ∧ s.SameEncoder t ∧ s.SameCmd t ∧ t.dout = s.dout ∧ t.rsp = s.rsp ∧ s.SameEnv t ∧
    (s.desIdx ≠ .high → t.desHi = s.desHi) ∧ (s.desIdx ≠ .low → t.expCount = s.expCount) ∧
    (s.desIdx ≠ .value → t.expValue = s.expValue ∧ t.st = s.st) ∧
    (s.SameDin t ∧ t.rem = s.rem ∨ t.din = s.din.tail ∧ t.dinHeld = false ∧ t.rem = s.rem - 1) := by
  rcases execDesTake_next h with rfl | ⟨_, hr, b, d, hd, rfl⟩
  · exact ⟨rfl, .refl t, .refl t, rfl, rfl, .refl t, fun _ => rfl, fun _ => rfl, fun _ => ⟨rfl, rfl⟩,
      .inl ⟨.refl t, rfl⟩⟩
  · obtain ⟨hstatus, henc, henv, hrem⟩ := s.popDin.fetchByte_frame b
    obtain ⟨hcmdHeld, hdinHeld⟩ := s.popDin.fetchByte_held b
    obtain ⟨htook, hcmd, hdout, hrsp⟩ := State.fetchByte_takes hd b
    obtain ⟨hhi, hcount, hvalue⟩ := s.popDin.fetchByte_unnamed b
    refine ⟨hstatus, henc, ⟨hcmd, hcmdHeld⟩, hdout, hrsp, henv, hhi, hcount, hvalue, .inr ⟨?_, hdinHeld, ?_⟩⟩
    · rw [htook, List.tail_cons]
    · rw [hrem, State.popDin_rem, lenPred_eq_sub hr]

/-- A copy put changes no decoder register but EXP_COUNT (R122). -/
theorem State.expandBeat_des (s : State) : s.expandBeat.desIdx = s.desIdx ∧ s.expandBeat.desHi = s.desHi := by
  rcases s.expandBeat_cases with ⟨_, he⟩ | ⟨_, he⟩ <;> rw [he]
  · obtain ⟨_, _, _, ⟨hidx, hhi, _⟩, _⟩ := ((s.putDout s.expValue).setExpCount (s.expCount - 1)).decAdvance_frame
    exact ⟨hidx, hhi⟩
  · exact ⟨rfl, rfl⟩

theorem execExpPut_frame {s t : State} (h : execExpPut s = .next t) :
    t.rem = s.rem ∧ t.status = s.status ∧ s.SameEncoder t ∧ t.desIdx = s.desIdx ∧ t.desHi = s.desHi ∧
    t.expValue = s.expValue ∧ s.SameCmd t ∧ s.SameDin t ∧ t.rsp = s.rsp ∧ s.SameEnv t ∧
    (t.dout = s.dout ∨ t.dout = s.dout ++ [s.expValue]) := by
  rcases execExpPut_next h with rfl | ⟨_, _, rfl⟩
  · exact ⟨rfl, rfl, .refl t, rfl, rfl, rfl, .refl t, .refl t, rfl, .refl t, .inl rfl⟩
  · obtain ⟨hrem, hstatus, henc, hvalue, henv⟩ := s.expandBeat_frame
    obtain ⟨hcmdHeld, hdinHeld⟩ := s.expandBeat_held
    obtain ⟨hdout, hcmd, hdin, hrsp⟩ := s.expandBeat_puts
    obtain ⟨hidx, hhi⟩ := s.expandBeat_des
    exact ⟨hrem, hstatus, henc, hidx, hhi, hvalue, ⟨hcmd, hcmdHeld⟩, ⟨hdin, hdinHeld⟩, hrsp, henv, .inr hdout⟩

/-- Settles O34: the frames of the two decoder steps. -/
theorem decoderFrame : Obligations.DecoderFrame := by
  unfold Obligations.DecoderFrame
  exact ⟨fun _ _ => execDesTake_frame, fun _ _ => execExpPut_frame⟩

/-! ### The response -/

/-- Settles O35: each of the three waits or is the response, which writes ST and `rsp` alone. -/
theorem responseFrame : Obligations.ResponseFrame := by
  unfold Obligations.ResponseFrame
  intro i s t hi h
  rcases exec_response_event hi h with rfl | ⟨hs, rfl⟩
  · exact ⟨rfl, .inl ⟨rfl, rfl⟩⟩
  · exact ⟨rfl, .inr ⟨hs, rfl, rfl⟩⟩

/-- A response token is transferred where STATUS is its status (R43; log 11). -/
theorem execRspOk_resp {s : State} (hs : s.st = .resp) (hv : s.status = .ok) : execRspOk s = .next s.respond :=
  if_pos ⟨hs, hv⟩

theorem execRspMalformed_resp {s : State} (hs : s.st = .resp) (hv : s.status = .malformedInput) :
    execRspMalformed s = .next s.respond := if_pos ⟨hs, hv⟩

/-- Settles O27: in RESP all three are the response, which puts STATUS. -/
theorem responseTokensAreTheResponseStep : Obligations.ResponseTokensAreTheResponseStep := by
  unfold Obligations.ResponseTokensAreTheResponseStep
  refine ⟨fun s hs hv => ⟨?_, (execRspOk_resp hs hv).trans (execCtlResp_resp hs).symm⟩,
    fun s hs hv => ⟨?_, (execRspMalformed_resp hs hv).trans (execCtlResp_resp hs).symm⟩⟩
  · rw [← hv, ← State.respond_eq]
    exact execRspOk_resp hs hv
  · rw [← hv, ← State.respond_eq]
    exact execRspMalformed_resp hs hv

end Sys2Proof.Machine

/-! PROOFS. O28, O29, O36: the row REC as a whole state, as three steps, and what it leaves unchanged (R61, R105, R107;
log 10). -/

namespace Sys2Proof

/-- Three counts down are one of three, where they do not wrap. -/
theorem lenPred_three {n : Len} (h : 3 ≤ n.toNat) : lenPred (lenPred (lenPred n)) = n - 3 := by
  have h2 : lenPred n = n - 1 := lenPred_eq_sub (by omega)
  have h1 : lenPred (lenPred n) = n - 1 - 1 := by rw [lenPred_eq_sub (by rw [lenPred_toNat]; omega), h2]
  rw [lenPred_eq_sub (by rw [lenPred_toNat, lenPred_toNat]; omega), h1]
  ring

end Sys2Proof

namespace Sys2Proof.Machine

/-! ### The record's beats as one -/

/-- The two count bytes taken: the count is in EXP_COUNT, and the value byte is next (R120). -/
theorem State.takeCount_eq {s : State} {c : Count} (hi : s.desIdx = .high) :
    (s.popDin.fetchByte (highByte c)).popDin.fetchByte (lowByte c) = { s with
      din := s.din.tail.tail, dinHeld := false, rem := lenPred (lenPred s.rem), desHi := highByte c, expCount := c,
      desIdx := .value } := by
  rw [State.fetchByte_high (s := s.popDin) _ hi,
    State.fetchByte_low (s := ((s.popDin.setDesHi (highByte c)).setDesIdx .low).popDin) _ rfl]
  simp [State.setDesIdx, State.setExpCount, State.popDin, State.setDesHi, countOf_bytes]

theorem State.takeRecord_eq {s : State} {r : Record} {d : List Byte} (hi : s.desIdx = .high)
    (hr : 3 ≤ s.rem.toNat) (hd : s.din = pack r ++ d) :
    s.takeRecord r = { s with
      din := d, dinHeld := false, rem := s.rem - 3, desHi := highByte r.count, expCount := r.count, expValue := r.value,
      st := if r.count ≠ 0 then .decExpand else if 3 < s.rem.toNat then .decFetch else .resp } := by
  have hrem := lenPred_three hr
  have htail : s.din.tail.tail.tail = d := by rw [hd]; rfl
  have hmore : 0 < (s.rem - 3).toNat ↔ 3 < s.rem.toNat := by
    rw [← hrem]
    simp only [lenPred_toNat]
    omega
  have hcount : 0 < r.count.toNat ↔ r.count ≠ 0 := by
    rw [Nat.pos_iff_ne_zero, not_iff_not]
    exact ⟨fun h => BitVec.eq_of_toNat_eq h, fun h => h ▸ rfl⟩
  rw [State.takeRecord, State.takeCount_eq hi]
  simp only [State.fetchByte, State.decAdvance, State.popDin, State.setExpValue, State.setDesIdx, State.goto, hrem,
    htail, hmore, hcount]
  split_ifs <;> simp [hi]

/-- The two count bytes put: the value byte is next (R110). -/
theorem State.putCount_eq {s : State} (hi : s.serIdx = .high) :
    s.serBeat.serBeat =
      { s with dout := s.dout ++ [highByte s.serCount, lowByte s.serCount], serIdx := .value } := by
  rw [State.serBeat_high hi, State.serBeat_low (s := (s.putDout (highByte s.serCount)).setSerIdx .low) rfl]
  simp [State.setSerIdx, State.putDout]

/-- The three puts make `pack` of the latched record, and then EncAdvance decides (R105, R110). -/
theorem State.putRecord_eq {s : State} (hi : s.serIdx = .high) :
    s.putRecord = State.encAdvance { s with dout := s.dout ++ pack s.latched, serIdx := .high } := by
  rw [State.putRecord, State.putCount_eq hi, State.serBeat_value rfl]
  simp [State.setSerIdx, State.putDout, pack, State.latched]

theorem State.offersRecord_iff {s : State} {r : Record} :
    s.offersRecord r = true ↔ s.st = .decFetch ∧ s.desIdx = .high ∧ 3 ≤ s.rem.toNat ∧ ∃ d, s.din = pack r ++ d := by
  simp only [State.offersRecord, decide_eq_true_eq]
  refine and_congr_right' (and_congr_right' (and_congr_right' ⟨fun h => ⟨_, take_three_eq_pack h⟩, ?_⟩))
  rintro ⟨d, hd⟩
  rw [hd]
  rfl

theorem State.holdsRecord_iff {s : State} {r : Record} :
    s.holdsRecord r = true ↔ s.st = .encEmit ∧ s.serIdx = .high ∧ s.latched = r := by
  simp [State.holdsRecord]

theorem execRecord_offered {s : State} {c : Count} {v : Byte} (h : s.offersRecord ⟨c, v⟩ = true) :
    execRecord c v s = .next (s.takeRecord ⟨c, v⟩) := if_pos h

theorem execRecord_held {s : State} {c : Count} {v : Byte} (h : s.holdsRecord ⟨c, v⟩ = true) :
    execRecord c v s = .next s.putRecord := by
  have hnot : ¬ s.offersRecord ⟨c, v⟩ = true := fun ho => by
    obtain ⟨hs, _⟩ := State.offersRecord_iff.1 ho
    obtain ⟨hs', _⟩ := State.holdsRecord_iff.1 h
    exact absurd (hs.symm.trans hs') nofun
  rw [execRecord, if_neg hnot, if_pos h]

/-- Settles O28: REC takes or puts the record's three bytes, whose effects as one are `State.takeRecord_eq` and
`State.putRecord_eq`. -/
theorem recordIsUnpackedOrPacked : Obligations.RecordIsUnpackedOrPacked := by
  unfold Obligations.RecordIsUnpackedOrPacked
  constructor
  · intro s c v d hs hi hr hd
    rw [← State.takeRecord_eq hi hr hd]
    exact execRecord_offered (State.offersRecord_iff.2 ⟨hs, hi, hr, d, hd⟩)
  · rintro s c v hs hi rfl rfl
    calc exec (.record s.serCount s.serValue) s
        _ = .next s.putRecord := execRecord_held (State.holdsRecord_iff.2 ⟨hs, hi, rfl⟩)
        _ = _ := by rw [State.putRecord_eq hi]; rfl

/-! ### The record as three steps -/

/-- The first edge of a prompt environment raises what is not raised yet, and that is all it adds to the others. -/
theorem step_tick {s : State} (h : s.sched = []) : step s.tick = step s := by
  have hedge : s.tick.edge = s.edge := by
    rw [State.edge_of_sched_nil h, State.edge_of_sched_nil (by rw [State.tick_sched, h]; rfl), State.tick_rest]
  simp only [step, clockEdge, State.fires, hedge, State.tick_tick h, State.tick_handshake, State.tick_selected]

/-- Nobody delays, and the host has raised `cmd_valid`. -/
def State.Raised (s : State) : Prop := s.Prompt ∧ s.cmdHeld = true

theorem State.Prompt.tick_raised {s : State} (h : s.Prompt) : s.tick.Raised := by
  refine ⟨State.Prompt_tick h, ?_⟩
  rw [State.tick_cmdHeld, State.Prompt_edge h]
  exact Bool.or_true _

/-- Nothing is left to raise but `din_valid`, which a take lowers again. -/
theorem State.Raised.tick_popDin {s : State} (h : s.Raised) : s.tick.popDin = s.popDin := by
  obtain ⟨⟨hsched, _⟩, hcmd⟩ := h
  simp [State.popDin, State.tick, hsched, hcmd]

theorem State.Raised.tick_eq {s : State} (h : s.Raised) (hd : s.dinHeld = true) : s.tick = s := by
  obtain ⟨⟨hsched, _⟩, hcmd⟩ := h
  cases s
  simp_all [State.tick]

theorem State.Raised.fetch {s : State} (h : s.Raised) (b : Byte) : (s.popDin.fetchByte b).Raised := by
  obtain ⟨⟨hsched, hrest⟩, hcmd⟩ := h
  obtain ⟨_, _, ⟨hsched', hrest'⟩, _⟩ := s.popDin.fetchByte_frame b
  obtain ⟨hcmd', _⟩ := s.popDin.fetchByte_held b
  exact ⟨⟨hsched'.trans hsched, hrest'.trans hrest⟩, hcmd'.trans hcmd⟩

theorem State.Raised.emit {s : State} (h : s.Raised) : s.serBeat.Raised := by
  obtain ⟨⟨hsched, hrest⟩, hcmd⟩ := h
  obtain ⟨_, _, _, _, _, hsched', hrest'⟩ := s.serBeat_frame
  obtain ⟨hcmd', _⟩ := s.serBeat_held
  exact ⟨⟨hsched'.trans hsched, hrest'.trans hrest⟩, hcmd'.trans hcmd⟩

theorem State.Raised.step_fetch {s : State} {b : Byte} {d : List Byte} (h : s.Raised) (hs : s.st = .decFetch)
    (hr : 0 < s.rem.toNat) (hd : s.din = b :: d) : step s = .next (s.popDin.fetchByte b) := by
  have hedge := State.Prompt_edge h.1
  have hh : s.handshake s.edge = true := by
    rw [State.handshake_decFetch _ hs, State.dinValid_iff, hedge]
    exact ⟨.inr rfl, b, d, hd⟩
  rw [← h.tick_popDin]
  exact step_of_event (by rw [hedge]; rfl) hh (.fetch b d hs hr hd)

theorem State.Raised.step_emit {s : State} (h : s.Raised) (hheld : s.dinHeld = true) (hs : s.st = .encEmit) :
    step s = .next s.serBeat := by
  have hedge := State.Prompt_edge h.1
  have hh : s.handshake s.edge = true := by
    rw [State.handshake_encEmit _ hs, hedge]
    rfl
  have hstep : step s = .next s.tick.serBeat := step_of_event (by rw [hedge]; rfl) hh (.emit hs)
  rwa [h.tick_eq hheld] at hstep

theorem runSteps_three {s t u v : State} (h1 : step s = .next t) (h2 : step t = .next u) (h3 : step u = .next v) :
    runSteps 3 s = .next v := by
  rw [runSteps_succ h1, runSteps_succ h2, runSteps_succ h3, runSteps]

theorem State.Raised.runSteps_takeRecord {s : State} {r : Record} (h : s.Raised) (ho : s.offersRecord r = true) :
    runSteps 3 s = .next (s.takeRecord r) := by
  obtain ⟨hs, hi, hr, d, hd⟩ := State.offersRecord_iff.1 ho
  have e1 : s.popDin.fetchByte (highByte r.count) = _ := State.fetchByte_high (s := s.popDin) _ hi
  have e2 := State.takeCount_eq (s := s) (c := r.count) hi
  have r1 := h.fetch (highByte r.count)
  have r2 := r1.fetch (lowByte r.count)
  refine runSteps_three (h.step_fetch (d := lowByte r.count :: r.value :: d) hs (by omega) hd)
    (r1.step_fetch (d := r.value :: d) (by rw [e1]; exact hs) ?_ (by rw [e1]; simp [hd, pack]))
    (r2.step_fetch (d := d) (by rw [e2]; exact hs) ?_ (by rw [e2]; simp [hd, pack]))
  · rw [e1]
    simp only [State.setDesIdx_rem, State.setDesHi_rem, State.popDin_rem, lenPred_toNat]
    omega
  · rw [e2]
    simp only [lenPred_toNat]
    omega

theorem State.Raised.runSteps_putRecord {s : State} (h : s.Raised) (hheld : s.dinHeld = true) (hs : s.st = .encEmit)
    (hi : s.serIdx = .high) : runSteps 3 s = .next s.putRecord := by
  have e1 : s.serBeat = _ := State.serBeat_high hi
  have e2 := State.putCount_eq hi
  exact runSteps_three (h.step_emit hheld hs) (h.emit.step_emit (by rw [e1]; exact hheld) (by rw [e1]; exact hs))
    (h.emit.emit.step_emit (by rw [e2]; exact hheld) (by rw [e2]; exact hs))

/-- Settles O29: once the first edge has raised the valids, each beat of the record is a step. -/
theorem recordIsThreeSteps : Obligations.RecordIsThreeSteps := by
  unfold Obligations.RecordIsThreeSteps
  intro s c v hp h
  have hraised := hp.tick_raised
  have hheld : s.tick.dinHeld = true := by
    rw [State.tick_dinHeld, State.Prompt_edge hp]
    exact Bool.or_true _
  rw [runSteps, ← step_tick hp.1, ← runSteps]
  rcases h with ho | hh
  · exact (hraised.runSteps_takeRecord ho).trans (execRecord_offered (s := s.tick) ho).symm
  · obtain ⟨hs, hi, _⟩ := State.holdsRecord_iff.1 hh
    exact (hraised.runSteps_putRecord hheld hs hi).trans (execRecord_held (s := s.tick) hh).symm

/-! ### The frame of REC -/

theorem execRecord_setStatus (c : Count) (v : Byte) (s : State) (w : Status) :
    execRecord c v (s.setStatus w) = Result.setStatus w (execRecord c v s) := by
  have hoffer : (s.setStatus w).offersRecord ⟨c, v⟩ = s.offersRecord ⟨c, v⟩ := rfl
  have hhold : (s.setStatus w).holdsRecord ⟨c, v⟩ = s.holdsRecord ⟨c, v⟩ := rfl
  have htake : (s.setStatus w).takeRecord ⟨c, v⟩ = (s.takeRecord ⟨c, v⟩).setStatus w := by
    simp only [State.takeRecord, State.popDin_setStatus, State.fetchByte_setStatus]
  have hput : (s.setStatus w).putRecord = s.putRecord.setStatus w := by
    simp only [State.putRecord, State.serBeat_setStatus]
  simp only [execRecord, hoffer, hhold, htake, hput, apply_ite (Result.setStatus w), Result.setStatus_next]

/-- Settles O36: REC waits, or its whole effect shows what it writes; and it commutes with writing STATUS. -/
theorem recordFrame : Obligations.RecordFrame := by
  unfold Obligations.RecordFrame
  intro c v s t h
  have hstatus : ∀ w, exec (.record c v) (s.setStatus w) = .next (t.setStatus w) := fun w => by
    rw [← Result.setStatus_next, ← h]
    exact execRecord_setStatus c v s w
  rcases execRecord_next h with rfl | ⟨hs, hi, hr, ⟨d, hd⟩, rfl⟩ | ⟨hs, hi, rfl, rfl, rfl⟩
  · exact ⟨rfl, .refl t, rfl, .refl t, fun _ => ⟨.refl t, rfl, .inl (.refl t)⟩,
      fun _ => ⟨rfl, rfl, rfl, .refl t, .refl t, .inl rfl⟩, hstatus⟩
  · rw [State.takeRecord_eq hi hr hd] at hstatus ⊢
    exact ⟨rfl, ⟨rfl, rfl⟩, rfl, ⟨rfl, rfl⟩, fun _ => ⟨⟨rfl, rfl, rfl, rfl, rfl, rfl⟩, rfl, .inr ⟨hd, rfl⟩⟩,
      fun hne => absurd hs hne, hstatus⟩
  · rw [State.putRecord_eq hi] at hstatus ⊢
    obtain ⟨⟨hcmd, hdin, hdout, hrsp⟩, hrem, hst, hdec, henv, hvalue, hcount⟩ := State.encAdvance_frame
      { s with dout := s.dout ++ pack s.latched, serIdx := .high }
    obtain ⟨hcmdHeld, hdinHeld⟩ := State.encAdvance_held { s with dout := s.dout ++ pack s.latched, serIdx := .high }
    exact ⟨hst, ⟨hcmd, hcmdHeld⟩, hrsp, henv, fun hne => absurd hs hne,
      fun _ => ⟨hrem, hvalue, hcount, hdec, ⟨hdin, hdinHeld⟩, .inr hdout⟩, hstatus⟩

end Sys2Proof.Machine

/-! PROOFS. O30, O17: an operation that is not on offer waits, and a command of a length that `cmd_len` cannot carry
never is (R84; U8). -/

namespace Sys2Proof.Machine

/-! ### Not on offer -/

theorem State.offeredLen_eq_none {s : State} {op : Op} {len : Nat}
    (h : s.st ≠ .idle ∨ ∀ l : Len, l.toNat = len → s.cmd.head? ≠ some ⟨op, l⟩) : s.offeredLen op len = none := by
  cases ho : s.offeredLen op len with
  | none => rfl
  | some l =>
    obtain ⟨hs, hl, q, hc⟩ := State.offeredLen_eq_some.1 ho
    rcases h with hne | hne
    · exact absurd hs hne
    · exact absurd (by rw [hc]; rfl) (hne l hl)

theorem execEncode_waits {s : State} {len : Nat} (h : s.offeredLen .encode len = none) :
    execEncode len s = .next s := by
  rw [execEncode, h]

theorem execDecode_waits {s : State} {len : Nat} (h : s.offeredLen .decode len = none) :
    execDecode len s = .next s := by
  rw [execDecode, h]

theorem execEncTake_waits {s : State} (h : s.st ≠ .encScan ∨ s.rem = 0 ∨ s.din = []) : execEncTake s = .next s := by
  obtain ⟨t, ht⟩ := execEncTake_total s
  rcases execEncTake_next ht with rfl | ⟨hs, hr, b, d, hd, _⟩
  · exact ht
  · rcases h with hne | hzero | hnil
    · exact absurd hs hne
    · exact absurd hzero (len_pos_iff.1 hr)
    · exact absurd (hd.symm.trans hnil) (List.cons_ne_nil b d)

theorem execDesTake_waits {s : State} (h : s.st ≠ .decFetch ∨ s.rem = 0 ∨ s.din = []) : execDesTake s = .next s := by
  obtain ⟨t, ht⟩ := execDesTake_total s
  rcases execDesTake_next ht with rfl | ⟨hs, hr, b, d, hd, _⟩
  · exact ht
  · rcases h with hne | hzero | hnil
    · exact absurd hs hne
    · exact absurd hzero (len_pos_iff.1 hr)
    · exact absurd (hd.symm.trans hnil) (List.cons_ne_nil b d)

theorem execExpPut_waits {s : State} (h : s.st ≠ .decExpand ∨ s.expCount = 0) : execExpPut s = .next s := by
  refine if_neg fun ⟨hs, hc⟩ => ?_
  rcases h with hne | hzero
  · exact hne hs
  · simp [hzero] at hc

theorem execRecord_waits {s : State} {c : Count} {v : Byte} (ho : s.offersRecord ⟨c, v⟩ = false)
    (hh : s.holdsRecord ⟨c, v⟩ = false) : execRecord c v s = .next s := by
  simp [execRecord, ho, hh]

/-- Settles O30: each operation's guard is that its event is on offer. -/
theorem operationNotOnOfferWaits : Obligations.OperationNotOnOfferWaits := by
  unfold Obligations.OperationNotOnOfferWaits
  refine ⟨fun _ _ h => execEncode_waits (State.offeredLen_eq_none h),
    fun _ _ h => execDecode_waits (State.offeredLen_eq_none h), fun _ => execEncTake_waits, fun _ h => if_neg h,
    fun _ => execDesTake_waits, fun _ => execExpPut_waits, fun _ h => if_neg h,
    fun _ h => if_neg (not_and_or.2 h), fun _ h => if_neg (not_and_or.2 h),
    fun s c v hfetch hemit => execRecord_waits ?_ ?_, fun _ _ _ => execRecord_waits⟩
  · exact Bool.eq_false_iff.2 fun ho => hfetch (State.offersRecord_iff.1 ho).1
  · exact Bool.eq_false_iff.2 fun hh => hemit (State.holdsRecord_iff.1 hh).1

/-! ### Lengths that do not fit -/

/-- Only a command's length can be too long for the wires (R62). -/
theorem Instr.not_wf_iff {i : Instr} :
    i.wf = false ↔ ∃ len, 2 ^ Config.lenWidth ≤ len ∧ (i = .encode len ∨ i = .decode len) := by
  cases i <;> simp [Instr.wf, Instr.fits]

theorem CmdToken.instr_wf (c : CmdToken) : c.instr.wf = true := by
  obtain ⟨op, l⟩ := c
  cases op <;> simp [CmdToken.instr, Instr.wf, Instr.fits, l.isLt]

theorem State.selected_wf {s : State} {i : Instr} (h : s.selected = some i) : i.wf = true := by
  rcases State.selected_cases h with ⟨_, c, _, _, rfl⟩ | ⟨_, rfl⟩ | ⟨_, rfl⟩ | ⟨_, rfl⟩ | ⟨_, rfl⟩ | ⟨_, rfl⟩
  · exact c.instr_wf
  all_goals rfl

theorem lenOf_too_long {len : Nat} (h : 2 ^ Config.lenWidth ≤ len) : lenOf len = none := by
  cases ho : lenOf len with
  | none => rfl
  | some l => exact absurd l.isLt (by rw [lenOf_eq_some.1 ho]; omega)

theorem State.placeCmd_too_long (s : State) (op : Op) {len : Nat} (h : 2 ^ Config.lenWidth ≤ len) :
    s.placeCmd op len = s := by
  rw [State.placeCmd, lenOf_too_long h]

theorem exec_of_not_wf {i : Instr} (s : State) (h : i.wf = false) : exec i s = .next s ∧ s.place i = s := by
  obtain ⟨len, hlen, rfl | rfl⟩ := Instr.not_wf_iff.1 h
  · exact ⟨execEncode_waits (State.offeredLen_too_long hlen), s.placeCmd_too_long .encode hlen⟩
  · exact ⟨execDecode_waits (State.offeredLen_too_long hlen), s.placeCmd_too_long .decode hlen⟩

theorem State.lengthsFit (s : State) : s.LengthsFit := ⟨s.rem.isLt, fun t _ => t.len.isLt⟩

/-- Settles O17: a word of `LEN_WIDTH` bits fits, and a length that does not fit is on no wires. -/
theorem remainingCountFitsItsWidth : Obligations.RemainingCountFitsItsWidth := by
  unfold Obligations.RemainingCountFitsItsWidth
  refine ⟨State.lengthsFit _, fun _ t _ _ => t.lengthsFit, State.lengthsFit, fun i s hi => ?_⟩
  obtain ⟨hexec, hplace⟩ := exec_of_not_wf s hi
  exact ⟨hexec, fun hsel => absurd ((State.selected_wf hsel).symm.trans hi) nofun, hplace⟩

end Sys2Proof.Machine

/-! PROOFS. O37, O39: the counters count exactly (R140), and STATUS becomes 1 in one way (R150, R157). -/

namespace Sys2Proof.Machine

/-! ### The counters -/

theorem State.encAdvance_runCount (s : State) : s.encAdvance.runCount = s.runCount := by
  obtain ⟨_, _, _, _, _, _, hcount⟩ := s.encAdvance_frame
  exact hcount

/-- A run starts at 1 or grows by exactly 1 (R97, R101). -/
theorem State.encScanByte_runCount (s : State) (b : Byte) :
    (s.encScanByte b).runCount.toNat =
      if s.runValid = true ∧ b = s.runValue ∧ s.runCount.toNat < 65535 then s.runCount.toNat + 1 else 1 := by
  rcases s.encScanByte_cases b with ⟨hv, he⟩ | ⟨hv, hb, hlt, he⟩ | ⟨hv, hne, he⟩ <;> rw [he]
  · rw [State.encAdvance_runCount, if_neg (by simp [hv])]
    rfl
  · rw [State.encAdvance_runCount, if_pos ⟨hv, hb, hlt⟩]
    exact count_succ_toNat hlt
  · rw [if_neg (by rintro ⟨_, hb, hlt⟩; rcases hne with h | h; exacts [h hb, by omega])]
    rfl

/-- A take counts REM down by exactly 1 (R140). -/
theorem State.encScanByte_rem {s : State} (hr : 0 < s.rem.toNat) (b : Byte) :
    (s.popDin.encScanByte b).rem.toNat + 1 = s.rem.toNat := by
  obtain ⟨_, _, _, hrem, _⟩ := s.popDin.encScanByte_frame b
  rw [hrem, State.popDin_rem, lenPred_toNat]
  omega

theorem State.fetchByte_rem {s : State} (hr : 0 < s.rem.toNat) (b : Byte) :
    (s.popDin.fetchByte b).rem.toNat + 1 = s.rem.toNat := by
  obtain ⟨_, _, _, hrem⟩ := s.popDin.fetchByte_frame b
  rw [hrem, State.popDin_rem, lenPred_toNat]
  omega

/-- The count that DES.TAKE builds (R66, R120). -/
theorem State.fetchByte_expCount {s : State} (hi : s.desIdx = .low) (b : Byte) :
    (s.fetchByte b).expCount.toNat = 256 * s.desHi.toNat + b.toNat := by
  rw [State.fetchByte_low b hi, State.setDesIdx_expCount, State.setExpCount_expCount, countOf_toNat]

/-- A put of a copy counts EXP_COUNT down by exactly 1 (R122). -/
theorem State.expandBeat_expCount {s : State} (hc : 0 < s.expCount.toNat) :
    s.expandBeat.expCount.toNat + 1 = s.expCount.toNat := by
  have hcount : s.expandBeat.expCount = s.expCount - 1 := by
    rcases s.expandBeat_cases with ⟨_, he⟩ | ⟨_, he⟩ <;> rw [he]
    · obtain ⟨_, _, _, ⟨_, _, h, _⟩, _⟩ := ((s.putDout s.expValue).setExpCount (s.expCount - 1)).decAdvance_frame
      exact h
    · rfl
  rw [hcount, count_pred_toNat hc]
  omega

/-- Settles O37: where an operation moves it takes or puts its token, and its counter counts by one. -/
theorem countersNeverWrap : Obligations.CountersNeverWrap := by
  unfold Obligations.CountersNeverWrap
  refine ⟨fun s t h hne => ?_, fun s t h hne => ?_, fun s t h hne => ?_, fun s b d hs hr hd => ?_,
    fun s b d hs hr hd => ?_, fun s hs hc => ?_⟩
  · obtain ⟨_, hr, b, _, _, rfl⟩ := (execEncTake_next h).resolve_left hne
    refine ⟨State.encScanByte_rem hr b, ?_⟩
    rw [State.encScanByte_runCount]
    split_ifs
    · exact .inr rfl
    · exact .inl rfl
  · obtain ⟨_, hr, b, _, hd, rfl⟩ := (execDesTake_next h).resolve_left hne
    exact ⟨State.fetchByte_rem hr b, b, State.fetchByte_takes hd b,
      fun hi => State.fetchByte_expCount (s := s.popDin) hi b⟩
  · obtain ⟨_, hc, rfl⟩ := (execExpPut_next h).resolve_left hne
    exact State.expandBeat_expCount hc
  · exact ⟨_, execEncTake_takes hs hr hd, State.encScanByte_takes hd b, State.encScanByte_rem hr b,
      s.popDin.encScanByte_runCount b⟩
  · exact ⟨_, execDesTake_takes hs hr hd, State.fetchByte_takes hd b, State.fetchByte_rem hr b⟩
  · exact ⟨_, execExpPut_puts hs hc, s.expandBeat_puts, State.expandBeat_expCount hc⟩

/-- Counted down to 0 means that one was left. -/
theorem count_eq_one_of_pred_eq_zero {c : Count} (hc : 0 < c.toNat) (h : c - 1 = 0) : c.toNat = 1 := by
  have hpred := count_pred_toNat hc
  rw [h] at hpred
  have hzero : (0 : Count).toNat = 0 := rfl
  omega

/-! ### STATUS -/

/-- Only the two commands take a command (R41 d). -/
theorem exec_cmd_of_not_command {i : Instr} {s t : State} (he : ∀ len, i ≠ .encode len) (hd : ∀ len, i ≠ .decode len)
    (h : exec i s = .next t) : t.cmd = s.cmd := by
  cases i with
  | encode len => exact absurd rfl (he len)
  | decode len => exact absurd rfl (hd len)
  | encTake =>
    obtain ⟨_, _, ⟨hcmd, _⟩, _⟩ := encTakeFrame s t h
    exact hcmd
  | serPut =>
    obtain ⟨_, _, _, _, _, ⟨hcmd, _⟩, _⟩ := serPutFrame s t h
    exact hcmd
  | desTake =>
    obtain ⟨_, _, ⟨hcmd, _⟩, _⟩ := execDesTake_frame h
    exact hcmd
  | expPut =>
    obtain ⟨_, _, _, _, _, _, ⟨hcmd, _⟩, _⟩ := execExpPut_frame h
    exact hcmd
  | ctlResp =>
    obtain ⟨ht, _⟩ := responseFrame _ s t (.inl rfl) h
    rw [ht]
  | record c v =>
    obtain ⟨_, ⟨hcmd, _⟩, _⟩ := recordFrame c v s t h
    exact hcmd
  | rspOk =>
    obtain ⟨ht, _⟩ := responseFrame _ s t (.inr (.inl rfl)) h
    rw [ht]
  | rspMalformed =>
    obtain ⟨ht, _⟩ := responseFrame _ s t (.inr (.inr rfl)) h
    rw [ht]

/-- What a DECODE that raises has done (R82, R155). -/
theorem execDecode_raises {len : Nat} {s t : State} (h : execDecode len s = .next t) (hs : s.status = .ok)
    (ht : t.status = .malformedInput) :
    ∃ l : Len, l.toNat = len ∧ len % 3 ≠ 0 ∧ s.st = .idle ∧ s.TookCmd t ⟨.decode, l⟩ ∧ t.st = .resp ∧ t.rem = 0 := by
  rcases execDecode_next h with rfl | ⟨hidle, l, q, hl, hc, ⟨hm, rfl⟩ | ⟨_, rfl⟩⟩
  · exact absurd (hs.symm.trans ht) nofun
  · exact ⟨l, hl, hm, hidle, State.popCmd_raiseMalformedInput_tookCmd hc, rfl, rfl⟩
  · exact absurd ht nofun

/-- Settles O39: whatever is not a command keeps STATUS, ENCODE clears it, and DECODE raises only on its guard; in RESP
the one event is the response. -/
theorem onlyMalformedDecodeRaises : Obligations.OnlyMalformedDecodeRaises := by
  unfold Obligations.OnlyMalformedDecodeRaises
  refine ⟨fun i s t h hs ht => ?_, fun s t hst hs hr h => ?_⟩
  · by_cases hd : ∃ len, i = .decode len
    · obtain ⟨len, rfl⟩ := hd
      obtain ⟨l, rfl, hl⟩ := execDecode_raises h hs ht
      exact ⟨l, rfl, hl⟩
    by_cases he : ∃ len, i = .encode len
    · obtain ⟨len, rfl⟩ := he
      rcases execEncode_next h with rfl | ⟨_, _, _, _, _, rfl⟩
      · exact absurd (hs.symm.trans ht) nofun
      · exact absurd ht nofun
    · have hcmd := exec_cmd_of_not_command (not_exists.1 he) (not_exists.1 hd) h
      exact absurd (((exec_status_of_cmd_eq h hcmd).trans hs).symm.trans ht) nofun
  · refine (step_event hr h).imp_right fun he => ?_
    obtain rfl := he.of_resp hst
    exact ⟨hs ▸ State.respond_puts s.tick, rfl, hs⟩

end Sys2Proof.Machine

/-! PROOFS. O40, O18: every event is a row of the transition table (R84), and only ENCODE leads to a scan without
a run (R32 I-j). -/

namespace Sys2Proof.Machine

/-! ### The rows of each state -/

theorem State.startCommand_st {s : State} {l : Len} (p : Phase) (h : 0 < l.toNat) : (s.startCommand l p).st = p :=
  if_neg (Nat.ne_of_gt h)

theorem State.startCommand_st_zero {s : State} {l : Len} (p : Phase) (h : l = 0) : (s.startCommand l p).st = .resp :=
  if_pos (len_eq_zero_iff.1 h)

theorem State.encAdvance_rem (s : State) : s.encAdvance.rem = s.rem := by
  obtain ⟨_, hrem, _⟩ := s.encAdvance_frame
  exact hrem

theorem State.decAdvance_rem (s : State) : s.decAdvance.rem = s.rem := by
  obtain ⟨_, hrem, _⟩ := s.decAdvance_frame
  exact hrem

/-- A byte that opens or extends the run is followed by scanning on or by the flush, for the run is then open. -/
theorem TableRow.of_scan_advance {s u : State} {b : Byte} (hs : s.st = .encScan) (htook : s.TookDin u.encAdvance b)
    (hcase : s.runValid = false ∨ b = s.runValue ∧ s.runCount.toNat < 65535) (hv : u.runValid = true) :
    TableRow s u.encAdvance := by
  have hrem := u.encAdvance_rem
  rcases u.encAdvance_cases with ⟨hr, he⟩ | ⟨hr, _, he⟩ | ⟨_, hv', _⟩
  · exact .scanOn b hs htook hcase (hrem.symm ▸ hr) (he ▸ rfl)
  · exact .scanFlush b hs htook hcase (hrem.trans hr) (he ▸ rfl)
  · exact absurd (hv.symm.trans hv') nofun

theorem TableRow.of_encScan {s : State} {b : Byte} {d : List Byte} (hs : s.st = .encScan) (hd : s.din = b :: d) :
    TableRow s (s.popDin.encScanByte b) := by
  have htook : s.TookDin (s.popDin.encScanByte b) b := State.encScanByte_takes hd b
  rcases s.popDin.encScanByte_cases b with ⟨hv, he⟩ | ⟨_, hb, hlt, he⟩ | ⟨hv, hne, he⟩ <;> rw [he] at htook ⊢
  · exact .of_scan_advance hs htook (.inl hv) rfl
  · exact .of_scan_advance hs htook (.inr ⟨hb, hlt⟩) ‹_›
  · exact .scanClose b hs htook hv hne rfl

theorem TableRow.of_encEmit {s : State} (hs : s.st = .encEmit) : TableRow s s.serBeat := by
  have hput : s.PutDout s.serBeat s.serByte := s.serBeat_puts
  cases hi : s.serIdx with
  | high => exact .emitOn _ hs hput (by rw [hi]; decide) (State.serBeat_high hi ▸ hs)
  | low => exact .emitOn _ hs hput (by rw [hi]; decide) (State.serBeat_low hi ▸ hs)
  | value =>
    have hidx : s.serIdx.toNat = 2 := by rw [hi]; rfl
    have hbeat : s.serBeat = _ := State.serBeat_value hi
    rcases State.encAdvance_cases ((s.putDout s.serValue).setSerIdx .high) with
      ⟨hr, he⟩ | ⟨hr, hv, he⟩ | ⟨hr, hv, he⟩ <;> rw [he] at hbeat
    · exact .emitScan _ hs hput hidx hr (hbeat ▸ rfl)
    · exact .emitFlush _ hs hput hidx hr hv (hbeat ▸ rfl)
    · exact .emitDone _ hs hput hidx hr hv (hbeat ▸ rfl)

theorem TableRow.of_decFetch {s : State} {b : Byte} {d : List Byte} (hs : s.st = .decFetch) (hd : s.din = b :: d) :
    TableRow s (s.popDin.fetchByte b) := by
  have htook : s.TookDin (s.popDin.fetchByte b) b := State.fetchByte_takes hd b
  obtain ⟨_, _, hst⟩ := s.popDin.fetchByte_unnamed b
  cases hi : s.desIdx with
  | high => exact .fetchOn b hs htook (by rw [hi]; decide) ((hst (by simp [hi])).2.trans hs)
  | low => exact .fetchOn b hs htook (by rw [hi]; decide) ((hst (by simp [hi])).2.trans hs)
  | value =>
    have hidx : s.desIdx.toNat = 2 := by rw [hi]; rfl
    rcases State.fetchByte_value (s := s.popDin) b hi with ⟨hc, he⟩ | ⟨hc, he⟩
    · exact .fetchExpand b hs htook hidx hc (he ▸ rfl)
    · rw [he] at htook ⊢
      have hrem := ((s.popDin.setExpValue b).setDesIdx .high).decAdvance_rem
      rcases State.decAdvance_cases ((s.popDin.setExpValue b).setDesIdx .high) with ⟨hr, ha⟩ | ⟨hr, ha⟩
      · exact .fetchNext b hs htook hidx hc (hrem.symm ▸ hr) (ha ▸ rfl)
      · exact .fetchDone b hs htook hidx hc (hrem.trans hr) (ha ▸ rfl)

theorem TableRow.of_decExpand {s : State} (hs : s.st = .decExpand) (hc : 0 < s.expCount.toNat) :
    TableRow s s.expandBeat := by
  have hput : s.PutDout s.expandBeat s.expValue := s.expandBeat_puts
  have hcount : s.expandBeat.expCount.toNat + 1 = s.expCount.toNat := State.expandBeat_expCount hc
  rcases s.expandBeat_cases with ⟨hlast, he⟩ | ⟨hmore, he⟩
  · have hone := count_eq_one_of_pred_eq_zero hc hlast
    have hzero : s.expandBeat.expCount.toNat = 0 := by omega
    rcases State.decAdvance_cases ((s.putDout s.expValue).setExpCount (s.expCount - 1)) with ⟨hr, ha⟩ | ⟨hr, ha⟩ <;>
      rw [ha] at he
    · exact .expandNext _ hs hput hzero hr (he ▸ rfl)
    · exact .expandDone _ hs hput hzero hr (he ▸ rfl)
  · refine .expandOn _ hs hput ?_ (he ▸ hs)
    rw [he]
    exact Nat.pos_of_ne_zero fun h => hmore (BitVec.eq_of_toNat_eq h)

theorem State.Event.tableRow {s t : State} (h : s.Event t) : TableRow s t := by
  cases h with
  | encode l q hs hc =>
    have htook := State.startCommand_tookCmd l .encScan hc
    rcases Nat.eq_zero_or_pos l.toNat with hl | hl
    · obtain rfl := len_eq_zero_iff.2 hl
      exact .encodeEmpty hs htook (State.startCommand_st_zero _ rfl)
    · exact .encodeStarts l hs htook hl (State.startCommand_st _ hl)
  | decode l q hs hc hm =>
    have htook := State.startCommand_tookCmd l .decFetch hc
    rcases Nat.eq_zero_or_pos l.toNat with hl | hl
    · obtain rfl := len_eq_zero_iff.2 hl
      exact .decodeEmpty hs htook (State.startCommand_st_zero _ rfl)
    · exact .decodeStarts l hs htook hl hm (State.startCommand_st _ hl)
  | refuse l q hs hc hm => exact .decodeRefused l hs (State.popCmd_raiseMalformedInput_tookCmd hc) hm rfl rfl
  | scan b d hs _ hd => exact .of_encScan hs hd
  | emit hs => exact .of_encEmit hs
  | fetch b d hs _ hd => exact .of_decFetch hs hd
  | expand hs hc => exact .of_decExpand hs hc
  | respond hs => exact .respond hs s.respond_puts rfl

/-- Settles O40: a step without reset uses up the edge or is an event, and every event is a row. -/
theorem everyStepFollowsTheTransitionTable : Obligations.EveryStepFollowsTheTransitionTable := by
  unfold Obligations.EveryStepFollowsTheTransitionTable
  intro s t h
  rcases step_next h with ⟨hr, rfl⟩ | ⟨hr, rfl | he⟩
  · exact .inl ⟨hr, rfl⟩
  · exact .inr ⟨hr, .inl rfl⟩
  · exact .inr ⟨hr, .inr he.tableRow⟩

/-! ### Scanning without an open run -/

theorem State.encScanByte_runValid (s : State) (b : Byte) (hst : (s.encScanByte b).st = .encScan) :
    (s.encScanByte b).runValid = true := by
  have advance : ∀ u : State, u.runValid = true → u.encAdvance.st = .encScan → u.encAdvance.runValid = true := by
    intro u hv hu
    rcases u.encAdvance_cases with ⟨_, he⟩ | ⟨_, _, he⟩ | ⟨_, _, he⟩ <;> rw [he] at hu ⊢
    · exact hv
    · exact absurd hu nofun
    · exact absurd hu nofun
  rcases s.encScanByte_cases b with ⟨_, he⟩ | ⟨hv, _, _, he⟩ | ⟨hv, _, he⟩ <;> rw [he] at hst ⊢
  · exact advance _ rfl hst
  · exact advance _ hv hst
  · exact hv

/-- The rows of the table that lead to ENC_SCAN (R84). -/
theorem TableRow.to_encScan {s t : State} (h : TableRow s t) (ht : t.st = .encScan) :
    (s.st = .idle ∧ ∃ len : Len, 0 < len.toNat ∧ s.TookCmd t ⟨.encode, len⟩) ∨ s.st = .encScan ∨
      s.st = .encEmit ∧ 0 < s.rem.toNat := by
  cases h with
  | encodeStarts len hs hc hl => exact .inl ⟨hs, len, hl, hc⟩
  | scanOn _ hs => exact .inr (.inl hs)
  | emitScan _ hs _ _ hr => exact .inr (.inr ⟨hs, hr⟩)
  | _ => simp_all

theorem State.Event.scan_without_run {s t : State} (h : s.Event t) (hinv : s.Inv) (ht : t.st = .encScan)
    (hv : t.runValid = false) : s.st = .idle ∧ ∃ len : Len, 0 < len.toNat ∧ s.TookCmd t ⟨.encode, len⟩ := by
  rcases h.tableRow.to_encScan ht with hidle | hs | ⟨hs, hr⟩
  · exact hidle
  · obtain ⟨_, b, _, _, rfl⟩ := h.of_encScan hs
    exact absurd ((State.encScanByte_runValid _ b ht).symm.trans hv) nofun
  · obtain rfl := h.of_encEmit hs
    obtain ⟨_, _, _, hlast, _⟩ := (State.inv_encEmit hs).1 hinv
    obtain ⟨_, _, hsame⟩ := State.serBeat_latch (s := s) (.inr (.inl hr))
    exact absurd (hlast (hsame.symm.trans hv)) (len_pos_iff.1 hr)

/-- Settles O18: a scan keeps its run open, and I-k has one open after a record with input left; so only ENCODE leads
there without. -/
theorem scanWithoutRunOnlyAfterEncode : Obligations.ScanWithoutRunOnlyAfterEncode := by
  unfold Obligations.ScanWithoutRunOnlyAfterEncode
  intro s t hinv h hst hv
  rcases step_next h with ⟨_, rfl⟩ | ⟨_, rfl | he⟩
  · exact absurd hst nofun
  · exact .inr ⟨s.tick_sameRegs, s.tick_noToken⟩
  · exact .inl (he.scan_without_run (State.tick_inv.2 hinv) hst hv)

end Sys2Proof.Machine

/-! PROOFS. O57: every data step lowers its transaction's measure (R139). -/

namespace Sys2Proof.Machine

/-! ### The ENCODE measure -/

theorem State.encMeasure_encEmit {s : State} (hs : s.st = .encEmit) :
    s.encMeasure = 4 * s.rem.toNat + (if s.runValid then 3 else 0) + (3 - s.serIdx.toNat) := by
  simp [State.encMeasure, hs]

theorem State.encMeasure_of_ne {s : State} (hs : s.st ≠ .encEmit) :
    s.encMeasure = 4 * s.rem.toNat + (if s.runValid then 3 else 0) := by
  simp [State.encMeasure, hs]

/-- EncAdvance moves nothing of the measure but the open run, which becomes the record still to be put (R98). -/
theorem State.encAdvance_measure (s : State) :
    s.encAdvance.encMeasure = 4 * s.rem.toNat + (if s.runValid then 3 else 0) := by
  rcases s.encAdvance_cases with ⟨_, he⟩ | ⟨hr, hv, he⟩ | ⟨hr, hv, he⟩ <;> rw [he]
  · exact State.encMeasure_of_ne (s := s.goto .encScan) nofun
  · simp [State.encMeasure, State.latchRun, RecIdx.toNat, hr, hv]
  · simp [State.encMeasure, hr, hv]

theorem State.emit_measure {s : State} (hs : s.st = .encEmit) : s.serBeat.encMeasure + 1 = s.encMeasure := by
  rw [State.encMeasure_encEmit hs]
  cases hi : s.serIdx with
  | high => rw [State.serBeat_high hi, State.encMeasure_encEmit (by exact hs)]; rfl
  | low => rw [State.serBeat_low hi, State.encMeasure_encEmit (by exact hs)]; rfl
  | value => rw [State.serBeat_value hi, State.encAdvance_measure]; rfl

/-- A byte that opens or closes a run lowers the measure by 1, one that extends it by 4. -/
theorem State.Event.scan_measure {s t : State} (h : s.Event t) (hs : s.st = .encScan) :
    (s.runValid = false ∧ t.encMeasure + 1 = s.encMeasure) ∨
    (s.runValid = true ∧ t.encMeasure + 4 = s.encMeasure ∧ ¬ (t.st = .encEmit ∧ t.runValid = true)) ∨
    (s.runValid = true ∧ t.encMeasure + 1 = s.encMeasure ∧ t.st = .encEmit ∧ t.runValid = true) := by
  obtain ⟨hr, b, _, _, rfl⟩ := h.of_encScan hs
  have hpred : s.popDin.rem.toNat + 1 = s.rem.toNat := by rw [State.popDin_rem, lenPred_toNat]; omega
  rw [State.encMeasure_of_ne (by rw [hs]; decide : s.st ≠ .encEmit)]
  rcases s.popDin.encScanByte_cases b with ⟨hv, he⟩ | ⟨hv, _, _, he⟩ | ⟨hv, _, he⟩ <;>
    rw [State.popDin_runValid] at hv <;> rw [he, hv]
  · have hm : ((s.popDin.newRun b).setRunValid true).encAdvance.encMeasure = 4 * s.popDin.rem.toNat + 3 :=
      State.encAdvance_measure _
    exact .inl ⟨rfl, by rw [hm, if_neg nofun]; omega⟩
  · have hm : s.popDin.extendRun.encAdvance.encMeasure = 4 * s.popDin.rem.toNat + 3 := by
      rw [State.encAdvance_measure, State.extendRun_runValid, State.popDin_runValid, hv]
      rfl
    refine .inr (.inl ⟨rfl, by rw [hm, if_pos rfl]; omega, ?_⟩)
    rintro ⟨hst, hrun⟩
    rcases s.popDin.extendRun.encAdvance_cases with ⟨_, ha⟩ | ⟨_, _, ha⟩ | ⟨_, _, ha⟩ <;> rw [ha] at hst hrun
    · exact absurd hst nofun
    · exact absurd hrun nofun
    · exact absurd hst nofun
  · have hm : ((s.popDin.latchRun.newRun b).goto .encEmit).encMeasure = 4 * s.popDin.rem.toNat + 3 + 3 := by
      rw [State.encMeasure_encEmit rfl, State.goto_runValid, State.newRun_runValid, State.latchRun_runValid,
        State.popDin_runValid, hv]
      rfl
    exact .inr (.inr ⟨rfl, by rw [hm, if_pos rfl]; omega, rfl, hv⟩)

theorem State.encMeasure_eq_zero_iff {s : State} (hinv : s.Inv)
    (hs : s.st = .encScan ∨ s.st = .encEmit ∨ s.st = .resp) : s.encMeasure = 0 ↔ s.st = .resp := by
  rcases hs with hs | hs | hs
  · obtain ⟨hr, _⟩ := (State.inv_encScan hs).1 hinv
    simp only [State.encMeasure_of_ne (by rw [hs]; decide : s.st ≠ .encEmit), hs, reduceCtorEq, iff_false]
    omega
  · have := s.serIdx.toNat_lt
    simp only [State.encMeasure_encEmit hs, hs, reduceCtorEq, iff_false]
    omega
  · obtain ⟨hr, hv, _⟩ := (State.inv_idle_or_resp (.inr hs)).1 hinv
    simp [State.encMeasure, hs, hr, hv]

/-! ### The DECODE measure -/

theorem State.decAdvance_measure (s : State) : s.decAdvance.decMeasure = 0 := by
  rcases s.decAdvance_cases with ⟨_, he⟩ | ⟨_, he⟩ <;> rw [he] <;> rfl

theorem State.expand_measure {s : State} (hs : s.st = .decExpand) (hc : 0 < s.expCount.toNat) :
    s.expandBeat.decMeasure + 1 = s.decMeasure := by
  have hcount : s.expandBeat.expCount.toNat + 1 = s.expCount.toNat := State.expandBeat_expCount hc
  rw [State.decMeasure, State.decMeasure, if_pos hs]
  rcases s.expandBeat_cases with ⟨hlast, he⟩ | ⟨_, he⟩
  · have hzero := State.decAdvance_measure ((s.putDout s.expValue).setExpCount (s.expCount - 1))
    rw [← he, State.decMeasure] at hzero
    have hone := count_eq_one_of_pred_eq_zero hc hlast
    omega
  · rw [if_pos (he ▸ hs), hcount]

theorem State.decMeasures_eq_zero_iff {s : State} (hinv : s.Inv)
    (hs : s.st = .decFetch ∨ s.st = .decExpand ∨ s.st = .resp) : s.rem = 0 ∧ s.decMeasure = 0 ↔ s.st = .resp := by
  rcases hs with hs | hs | hs
  · obtain ⟨hr, _⟩ := (State.inv_decFetch hs).1 hinv
    simp only [hs, reduceCtorEq, iff_false, not_and]
    exact fun hz => absurd hz (len_pos_iff.1 hr)
  · obtain ⟨_, _, _, _, hc, _⟩ := (State.inv_decExpand hs).1 hinv
    simp only [State.decMeasure, hs, if_true, reduceCtorEq, iff_false, not_and]
    exact fun _ => Nat.ne_of_gt hc
  · obtain ⟨hr, _⟩ := (State.inv_idle_or_resp (.inr hs)).1 hinv
    simp [State.decMeasure, hs, hr]

/-- Settles O57: a made handshake is an event, and each event lowers its measure. -/
theorem measuresDecrease : Obligations.MeasuresDecrease := by
  unfold Obligations.MeasuresDecrease
  refine ⟨fun s t hinv hr hh h => ?_, fun _ => State.encMeasure_eq_zero_iff, fun _ => State.decMeasures_eq_zero_iff⟩
  obtain ⟨u, hu, he⟩ := step_event_of_handshake hinv.countersReady hr hh
  obtain rfl : u = t := Host.Outcome.next.inj (hu.symm.trans h)
  refine ⟨fun hs => ?_, fun hs hv => ?_, fun hs hv hst hrun => ?_, fun hs hv hnot => ?_, fun hs => ?_, fun hs => ?_⟩
  · obtain rfl := he.of_encEmit hs
    exact State.emit_measure (s := s.tick) hs
  · rcases he.scan_measure hs with ⟨_, hm⟩ | ⟨hv', _⟩ | ⟨hv', _⟩
    · exact hm
    · exact absurd (hv.symm.trans hv') nofun
    · exact absurd (hv.symm.trans hv') nofun
  · rcases he.scan_measure hs with ⟨hv', _⟩ | ⟨_, _, hnot⟩ | ⟨_, hm, _⟩
    · exact absurd (hv.symm.trans hv') nofun
    · exact absurd ⟨hst, hrun⟩ hnot
    · exact hm
  · rcases he.scan_measure hs with ⟨hv', _⟩ | ⟨_, hm, _⟩ | ⟨_, _, hyes⟩
    · exact absurd (hv.symm.trans hv') nofun
    · exact hm
    · exact absurd hyes hnot
  · obtain ⟨hrem, b, _, _, rfl⟩ := he.of_decFetch hs
    exact State.fetchByte_rem (s := s.tick) hrem b
  · obtain ⟨hc, rfl⟩ := he.of_decExpand hs
    exact ⟨s.tick.expandBeat_frame.1, State.expand_measure (s := s.tick) hs hc⟩

end Sys2Proof.Machine

/-! PROOFS. O1, O2, O3: the words of the four formats and the operations they carry (R60 to R65). -/

namespace Sys2Proof

/-! ### The record's word is its three bytes -/

/-- The bytes of a record's word, as `decodeRecord` cuts it (R61). -/
theorem decodeRecord_of_lt {w : Nat} (h : w < 2 ^ 24) :
    decodeRecord w =
      .ok (.record (countOf (BitVec.ofNat 8 (w / 65536)) (BitVec.ofNat 8 (w / 256))) (BitVec.ofNat 8 w)) :=
  if_pos h

theorem decodeRecord_word (c : Count) (v : Byte) :
    decodeRecord (256 * c.toNat + v.toNat) = .ok (.record c v) := by
  have hc := c.isLt
  have hv := v.isLt
  have hcount : countOf (BitVec.ofNat 8 ((256 * c.toNat + v.toNat) / 65536))
      (BitVec.ofNat 8 ((256 * c.toNat + v.toNat) / 256)) = c := by
    apply BitVec.eq_of_toNat_eq
    rw [countOf_toNat, BitVec.toNat_ofNat, BitVec.toNat_ofNat]
    omega
  have hvalue : BitVec.ofNat 8 (256 * c.toNat + v.toNat) = v := by
    apply BitVec.eq_of_toNat_eq
    rw [BitVec.toNat_ofNat]
    omega
  rw [decodeRecord_of_lt (by omega), hcount, hvalue]

/-- Settles O2: a command's bit above its length tells it from the other, the codes are the tables', and a record's word
is cut into its bytes. -/
theorem everyOperationDecodesFromItsWord : Obligations.EveryOperationDecodesFromItsWord := by
  unfold Obligations.EveryOperationDecodesFromItsWord
  intro i hwf
  cases i with
  | encode len => exact Machine.decodeCmd_encode (of_decide_eq_true hwf)
  | decode len => exact Machine.decodeCmd_decode (of_decide_eq_true hwf)
  | record c v => exact decodeRecord_word c v
  | encTake => rfl
  | serPut => rfl
  | desTake => rfl
  | expPut => rfl
  | ctlResp => rfl
  | rspOk => rfl
  | rspMalformed => rfl

/-! ### A word that decodes, by format -/

/-- The word `w` is that of the operation `i`, which has the format `f` and fits the wires. -/
def IsWordOf (f : Format) (w : Nat) (i : Instr) : Prop := i.format = f ∧ i.wf = true ∧ encodeWord i = w

theorem decodeCmd_isWordOf {w : Nat} {i : Instr} (h : decodeCmd Config.lenWidth w = .ok i) : IsWordOf .cmd w i := by
  have hfits : w % 2 ^ Config.lenWidth < 2 ^ Config.lenWidth := Nat.mod_lt _ (Nat.two_pow_pos _)
  have hword := Nat.div_add_mod w (2 ^ Config.lenWidth)
  unfold decodeCmd at h
  split at h
  · rename_i hop
    obtain rfl := Except.ok.inj h
    rw [hop, Nat.mul_zero, Nat.zero_add] at hword
    exact ⟨rfl, decide_eq_true hfits, hword⟩
  · rename_i hop
    obtain rfl := Except.ok.inj h
    rw [hop, Nat.mul_one] at hword
    exact ⟨rfl, decide_eq_true hfits, hword⟩
  · cases h

theorem decodeStep_isWordOf {w : Nat} {i : Instr} (h : decodeStep w = .ok i) : IsWordOf .step w i := by
  unfold decodeStep at h
  split at h <;> cases h <;> exact ⟨rfl, rfl, rfl⟩

theorem decodeRecord_isWordOf {w : Nat} {i : Instr} (h : decodeRecord w = .ok i) : IsWordOf .record w i := by
  by_cases hlt : w < 2 ^ 24
  · rw [decodeRecord_of_lt hlt] at h
    obtain rfl := Except.ok.inj h
    refine ⟨rfl, rfl, ?_⟩
    simp only [encodeWord, encodeWordAt, countOf_toNat, BitVec.toNat_ofNat]
    omega
  · rw [decodeRecord, if_neg hlt] at h
    cases h

theorem decodeRsp_isWordOf {w : Nat} {i : Instr} (h : decodeRsp w = .ok i) : IsWordOf .rsp w i := by
  unfold decodeRsp at h
  split at h <;> cases h <;> exact ⟨rfl, rfl, rfl⟩

/-- Settles O3: each format's decoder gives back every bit of the word. -/
theorem decodedWordIsTheOperationsWord : Obligations.DecodedWordIsTheOperationsWord := by
  unfold Obligations.DecodedWordIsTheOperationsWord
  intro f w i h
  cases f with
  | cmd => exact decodeCmd_isWordOf h
  | step => exact decodeStep_isWordOf h
  | record => exact decodeRecord_isWordOf h
  | rsp => exact decodeRsp_isWordOf h

/-- Settles O1: each sample word through its format's decoder; the record words are whole words of `encodeWordAt`. -/
theorem sampleWordsDecode : Obligations.SampleWordsDecode := by
  unfold Obligations.SampleWordsDecode
  exact ⟨rfl, rfl, decodeRecord_word 3 0x41, decodeRecord_word 258 0x10, decodeRecord_word 4465 0xFF, rfl, rfl⟩

end Sys2Proof

/-! PROOFS. O6: records, record lists and byte sequences, there and back (R109). -/

namespace Sys2Proof

theorem pack_unpack (b0 b1 b2 : Byte) : pack (unpack b0 b1 b2) = [b0, b1, b2] := by
  simp only [pack, unpack, highByte_countOf, lowByte_countOf]

namespace Codec

theorem serialize_cons (r : Record) (rs : List Record) : serialize (r :: rs) = pack r ++ serialize rs := by
  simp [serialize]

/-- Bytes that deserialize are the bytes of their records (R106, R108). -/
theorem serialize_of_deserialize {e : List Byte} {rs : List Record} (h : deserialize e = some rs) :
    serialize rs = e := by
  induction e using deserialize.induct generalizing rs with
  | case1 =>
    obtain rfl := Option.some.inj h
    rfl
  | case2 b0 b1 b2 rest ih =>
    obtain ⟨rs', hrs', rfl⟩ := Option.map_eq_some_iff.1 h
    rw [serialize_cons, pack_unpack, ih hrs']
    rfl
  | case3 => cases h
  | case4 => cases h

/-- Settles O6: the bytes of a count make the count and back, and so for lists of records. -/
theorem serializeAndDeserializeAreInverse : Obligations.SerializeAndDeserializeAreInverse := by
  unfold Obligations.SerializeAndDeserializeAreInverse
  refine ⟨unpack_pack_bytes, pack_unpack, deserialize_serialize, fun e he => ?_⟩
  obtain ⟨rs, hrs⟩ := exists_deserialize_of_length he
  exact ⟨rs, hrs, serialize_of_deserialize hrs⟩

end Codec

end Sys2Proof

/-! PROOFS. O43, O48: the fold of the encoder computes the record list, for the canonical record lists are the ones it
gives back from their expansion (R90 to R93, R132, R133). -/

namespace Sys2Proof.Codec

/-! ### Canonical record lists -/

/-- The record `r'` can follow `r`: it is of another value, or `r` is full (R132). -/
def MayFollow (r r' : Record) : Prop := r.value ≠ r'.value ∨ r.count.toNat = 65535

/-- Counts at least 1, and equal neighbours only after a full record (R133). -/
def IsCanonical (rs : List Record) : Prop := (∀ r ∈ rs, 1 ≤ r.count.toNat) ∧ rs.IsChain MayFollow

theorem canonicalRecords_iff (rs : List Record) : canonicalRecords rs = true ↔ IsCanonical rs := by
  induction rs using canonicalRecords.induct with
  | case1 => simp [canonicalRecords, IsCanonical]
  | case2 r => simp [canonicalRecords, IsCanonical]
  | case3 r r' rs ih =>
    simp only [canonicalRecords, Bool.and_eq_true, Bool.or_eq_true, decide_eq_true_eq, ih, IsCanonical,
      List.forall_mem_cons, List.isChain_cons_cons, MayFollow]
    tauto

theorem isCanonical_append {a b : List Record} :
    IsCanonical (a ++ b) ↔
      IsCanonical a ∧ IsCanonical b ∧ ∀ r ∈ a.getLast?, ∀ r' ∈ b.head?, MayFollow r r' := by
  simp only [IsCanonical, List.forall_mem_append, List.isChain_append]
  tauto

/-! ### The fold gives a canonical list back from its expansion -/

/-- A byte that may not extend the last record opens a new one (R93). -/
theorem snoc_opens {rs : List Record} {x : Byte} (h : ∀ r ∈ rs.getLast?, MayFollow r ⟨1, x⟩) :
    snoc rs x = rs ++ [⟨1, x⟩] := by
  rcases rs.eq_nil_or_concat' with rfl | ⟨rs, r, rfl⟩
  · rfl
  · have hr : r.value ≠ x ∨ r.count.toNat = 65535 := h r (by simp)
    rw [snoc_append, if_neg (by rintro ⟨hx, hlt⟩; rcases hr with hne | hfull; exacts [hne hx, by omega])]
    simp

theorem snoc_extends {rs : List Record} {r : Record} (h : r.count.toNat < 65535) :
    snoc (rs ++ [r]) r.value = rs ++ [⟨r.count + 1, r.value⟩] := by
  rw [snoc_append, if_pos ⟨rfl, h⟩]

/-- Copies of a byte, no more than a record carries, make one record. -/
theorem foldl_snoc_replicate {rs : List Record} {x : Byte} (h : ∀ r ∈ rs.getLast?, MayFollow r ⟨1, x⟩) {n : Nat}
    (hn : n < 65535) : (List.replicate (n + 1) x).foldl snoc rs = rs ++ [⟨BitVec.ofNat 16 (n + 1), x⟩] := by
  induction n with
  | zero => exact snoc_opens h
  | succ n ih =>
    have hcount : (BitVec.ofNat 16 (n + 1)).toNat < 65535 := by rw [BitVec.toNat_ofNat]; omega
    rw [List.replicate_succ', List.foldl_append, ih (by omega), List.foldl_cons, List.foldl_nil]
    rw [BitVec.ofNat_add (n + 1) 1]
    exact snoc_extends (r := ⟨BitVec.ofNat 16 (n + 1), x⟩) hcount

theorem encFold_expand {rs : List Record} (h : IsCanonical rs) : encFold (expand rs) = rs := by
  induction rs using List.reverseRecOn with
  | nil => rfl
  | append_singleton rs r ih =>
    obtain ⟨hrs, ⟨hpos, _⟩, hfollow⟩ := isCanonical_append.1 h
    have hr : 1 ≤ r.count.toNat := hpos r (List.mem_singleton_self r)
    have hlast : ∀ r' ∈ rs.getLast?, MayFollow r' ⟨1, r.value⟩ := fun r' hr' => hfollow r' hr' r rfl
    have hlt := r.count.isLt
    obtain ⟨n, hn⟩ := Nat.exists_eq_add_of_le' hr
    calc encFold (expand (rs ++ [r]))
      _ = (List.replicate r.count.toNat r.value).foldl snoc (encFold (expand rs)) := by
        rw [encFold, expand_append, expand_singleton, List.foldl_append, encFold]
      _ = (List.replicate (n + 1) r.value).foldl snoc rs := by rw [ih hrs, hn]
      _ = rs ++ [⟨BitVec.ofNat 16 (n + 1), r.value⟩] := foldl_snoc_replicate hlast (by omega)
      _ = rs ++ [r] := by rw [← hn, BitVec.ofNat_toNat, BitVec.setWidth_eq]

/-! ### The records of maximal runs are canonical -/

theorem isCanonical_split (n : Nat) (v : Byte) : IsCanonical (split n v) := by
  have hfull : (65535 : Count).toNat = 65535 := rfl
  have hchain : (List.replicate (n / 65535) (⟨65535, v⟩ : Record)).IsChain MayFollow :=
    List.isChain_replicate_of_rel _ (.inr hfull)
  refine ⟨fun r hr => (split_count_range hr).1, ?_⟩
  by_cases h : n % 65535 = 0
  · rwa [split_of_mod_eq_zero v h]
  · rw [split_of_mod_ne_zero v h, List.isChain_append]
    refine ⟨hchain, List.isChain_singleton _, fun r hr r' _ => .inr ?_⟩
    rw [List.eq_of_mem_replicate (List.mem_of_mem_getLast? hr)]
    exact hfull

theorem split_value {n : Nat} {v : Byte} {r : Record} (hr : r ∈ split n v) : r.value = v := by
  obtain ⟨_, _, hv⟩ := split_count_range hr
  exact hv

theorem split_ne_nil {n : Nat} (v : Byte) (h : 1 ≤ n) : split n v ≠ [] := by
  rw [← List.length_pos_iff, split_length]
  omega

/-- The first record of maximal runs is of their first run's value. -/
theorem head_flatMap_split_value {rs : List (Nat × Byte)} {v : Byte} (h : AreMaximalRuns rs) (hv : NotOpenedBy v rs)
    {r : Record} (hr : r ∈ (rs.flatMap fun x => split x.1 x.2).head?) : v ≠ r.value := by
  cases rs with
  | nil => cases hr
  | cons x rs =>
    obtain ⟨n, u⟩ := x
    obtain ⟨hn, _, _⟩ := areMaximalRuns_cons.1 h
    rw [List.flatMap_cons, List.head?_append_of_ne_nil _ (split_ne_nil u hn)] at hr
    rw [split_value (List.mem_of_mem_head? hr)]
    exact hv _ rfl

theorem isCanonical_flatMap_split {rs : List (Nat × Byte)} (h : AreMaximalRuns rs) :
    IsCanonical (rs.flatMap fun x => split x.1 x.2) := by
  induction rs with
  | nil => exact ⟨nofun, List.isChain_nil⟩
  | cons x rs ih =>
    obtain ⟨n, v⟩ := x
    obtain ⟨_, hv, hrs⟩ := areMaximalRuns_cons.1 h
    rw [List.flatMap_cons, isCanonical_append]
    refine ⟨isCanonical_split n v, ih hrs, fun r hr r' hr' => .inl ?_⟩
    rw [split_value (List.mem_of_mem_getLast? hr)]
    exact head_flatMap_split_value hrs hv hr'

theorem isCanonical_encRuns (b : List Byte) : IsCanonical (encRuns b) :=
  isCanonical_flatMap_split (areMaximalRuns_mruns b)

theorem encFold_eq_encRuns (b : List Byte) : encFold b = encRuns b :=
  calc encFold b
    _ = encFold (expand (encRuns b)) := by rw [expand_encRuns]
    _ = encRuns b := encFold_expand (isCanonical_encRuns b)

/-- Settles O43: the records of the maximal runs are canonical and stand for `b`, and the fold gives them back. -/
theorem foldComputesTheRecords : Obligations.FoldComputesTheRecords := encFold_eq_encRuns

/-! ### `encode` undoes `decode` on canonical streams -/

theorem encRuns_expand {rs : List Record} (h : IsCanonical rs) : encRuns (expand rs) = rs := by
  rw [← encFold_eq_encRuns, encFold_expand h]

theorem decode_serialize (rs : List Record) : decode (serialize rs) = .ok (expand rs) :=
  decode_of_deserialize (by rw [serialize_length]; exact Nat.mul_mod_right 3 _) (deserialize_serialize rs)

/-- What decodes is the bytes of records, and decodes to their expansion (R115). -/
theorem decode_eq_ok {e b : List Byte} (h : decode e = .ok b) : ∃ rs, e = serialize rs ∧ b = expand rs := by
  by_cases hm : e.length % 3 = 0
  · obtain ⟨rs, hrs⟩ := exists_deserialize_of_length hm
    rw [decode_of_deserialize hm hrs] at h
    exact ⟨rs, (serialize_of_deserialize hrs).symm, (Except.ok.inj h).symm⟩
  · rw [decode_of_malformed_length hm] at h
    cases h

theorem canonical_iff {e : List Byte} : canonical e = true ↔ ∃ rs, IsCanonical rs ∧ e = serialize rs := by
  unfold canonical
  constructor
  · intro h
    split at h
    · rename_i rs hrs
      exact ⟨rs, (canonicalRecords_iff rs).1 h, (serialize_of_deserialize hrs).symm⟩
    · cases h
  · rintro ⟨rs, hrs, rfl⟩
    rw [deserialize_serialize]
    exact (canonicalRecords_iff rs).2 hrs

/-- Settles O48: the encoder's lists are canonical, and a canonical list is the encoder's of its expansion. -/
theorem canonicalStreamsAreTheEncoded : Obligations.CanonicalStreamsAreTheEncoded := by
  unfold Obligations.CanonicalStreamsAreTheEncoded
  refine ⟨fun b k h heq => ?_, fun rs => ⟨fun h => ?_, ?_⟩, ?_, fun e he => ?_⟩
  · obtain ⟨_, hchain⟩ := isCanonical_encRuns b
    exact (List.isChain_iff_getElem.1 hchain k h).resolve_left (not_not_intro heq)
  · exact ⟨expand rs, encRuns_expand ((canonicalRecords_iff rs).1 h)⟩
  · rintro ⟨b, rfl⟩
    exact (canonicalRecords_iff _).2 (isCanonical_encRuns b)
  · rintro _ b rfl
    exact (expand_encRuns b).symm
  · obtain ⟨rs, hrs, rfl⟩ := canonical_iff.1 he
    exact ⟨expand rs, decode_serialize rs, by rw [encode, encRuns_expand hrs]⟩

end Sys2Proof.Codec

/-! PROOFS. O49, O50: concatenation at record boundaries, and the size bounds (R119, R125, R142). -/

namespace Sys2Proof.Codec

/-! ### Concatenation -/

/-- The last record is of the last byte. -/
theorem getLast_encRuns_value {b : List Byte} {r : Record} (hr : r ∈ (encRuns b).getLast?) :
    b.getLast? = some r.value := by
  obtain ⟨rs, hrs⟩ := List.getLast?_eq_some_iff.1 hr
  obtain ⟨hpos, _⟩ := encRuns_count_range (b := b) (r := r) (by simp [hrs])
  obtain ⟨n, hn⟩ := Nat.exists_eq_add_of_le' hpos
  rw [← expand_encRuns b, hrs, expand_append, expand_singleton, hn, List.replicate_succ', ← List.append_assoc,
    List.getLast?_concat]

/-- The first record is of the first byte. -/
theorem head_encRuns_value {b : List Byte} {r : Record} (hr : r ∈ (encRuns b).head?) : b.head? = some r.value := by
  obtain ⟨rs, hrs⟩ := List.head?_eq_some_iff.1 hr
  obtain ⟨hpos, _⟩ := encRuns_count_range (b := b) (r := r) (by simp [hrs])
  obtain ⟨n, hn⟩ := Nat.exists_eq_add_of_le' hpos
  rw [← expand_encRuns b, hrs, expand, List.flatMap_cons, hn, List.replicate_succ]
  rfl

theorem encRuns_append {b1 b2 : List Byte} (h : b1.getLast? ≠ b2.head?) :
    encRuns (b1 ++ b2) = encRuns b1 ++ encRuns b2 := by
  have hcanon : IsCanonical (encRuns b1 ++ encRuns b2) :=
    isCanonical_append.2 ⟨isCanonical_encRuns b1, isCanonical_encRuns b2, fun r hr r' hr' => .inl fun heq => h <| by
      rw [getLast_encRuns_value hr, head_encRuns_value hr', heq]⟩
  calc encRuns (b1 ++ b2)
    _ = encRuns (expand (encRuns b1 ++ encRuns b2)) := by rw [expand_append, expand_encRuns, expand_encRuns]
    _ = encRuns b1 ++ encRuns b2 := encRuns_expand hcanon

/-- Settles O49: lists of records concatenate, and a cut that splits no run leaves the record list canonical. -/
theorem concatenationAtBoundaries : Obligations.ConcatenationAtBoundaries := by
  unfold Obligations.ConcatenationAtBoundaries
  refine ⟨fun e1 e2 b1 b2 h1 h2 => ?_, fun b1 b2 h => ?_⟩
  · obtain ⟨rs1, rfl, rfl⟩ := decode_eq_ok h1
    obtain ⟨rs2, rfl, rfl⟩ := decode_eq_ok h2
    rw [← serialize_append, decode_serialize, expand_append]
  · rw [encode, encRuns_append h, serialize_append]
    rfl

/-! ### Sizes -/

theorem expand_length (rs : List Record) : (expand rs).length = (rs.map fun r => r.count.toNat).sum := by
  simp [expand, List.length_flatMap]

theorem encode_length (b : List Byte) : (encode b).length = 3 * (encRuns b).length := serialize_length (encRuns b)

theorem length_le_expand {rs : List Record} (h : ∀ r ∈ rs, 1 ≤ r.count.toNat) :
    rs.length ≤ (expand rs).length := by
  rw [expand_length, ← List.length_map (fun r : Record => r.count.toNat)]
  exact List.length_le_sum_of_one_le _ (List.forall_mem_map.2 h)

theorem expand_length_le (rs : List Record) : (expand rs).length ≤ 65535 * rs.length := by
  induction rs with
  | nil => exact le_rfl
  | cons r rs ih =>
    have hr := r.count.isLt
    rw [expand_length] at ih ⊢
    rw [List.map_cons, List.sum_cons, List.length_cons]
    omega

/-- Records no fewer than the bytes they stand for are all of count 1. -/
theorem count_eq_one_of_length {rs : List Record} (h : ∀ r ∈ rs, 1 ≤ r.count.toNat)
    (hlen : rs.length = (expand rs).length) : ∀ r ∈ rs, r.count.toNat = 1 := by
  induction rs with
  | nil => exact nofun
  | cons r rs ih =>
    obtain ⟨hr, hrs⟩ := List.forall_mem_cons.1 h
    have hle := length_le_expand hrs
    rw [expand_length] at hlen hle
    rw [List.map_cons, List.sum_cons, List.length_cons] at hlen
    exact List.forall_mem_cons.2 ⟨by omega, ih hrs (by rw [expand_length]; omega)⟩

/-- Records of count 1 stand for their values. -/
theorem expand_of_count_one {rs : List Record} (h : ∀ r ∈ rs, r.count.toNat = 1) :
    expand rs = rs.map Record.value := by
  induction rs with
  | nil => rfl
  | cons r rs ih =>
    obtain ⟨hr, hrs⟩ := List.forall_mem_cons.1 h
    rw [expand, List.flatMap_cons, hr, ← expand, ih hrs]
    rfl

/-- As many records as bytes, exactly when no two neighbouring bytes are equal. -/
theorem encRuns_length_eq_iff (b : List Byte) : (encRuns b).length = b.length ↔ b.IsChain (· ≠ ·) := by
  constructor
  · intro h
    obtain ⟨hpos, hchain⟩ := isCanonical_encRuns b
    have hone := count_eq_one_of_length hpos (by rw [h, expand_encRuns])
    have hb : b = (encRuns b).map Record.value := (expand_encRuns b).symm.trans (expand_of_count_one hone)
    rw [hb, List.isChain_map]
    refine hchain.imp_of_mem_imp fun r r' hr _ hfollow => ?_
    exact hfollow.resolve_right (by rw [hone r hr]; decide)
  · intro h
    have hone : ∀ r ∈ b.map (Record.mk 1), r.count.toNat = 1 := by simp
    have hcanon : IsCanonical (b.map (Record.mk 1)) :=
      ⟨fun r hr => (hone r hr).ge, (List.isChain_map _).2 (h.imp fun _ _ hne => .inl hne)⟩
    have hb : expand (b.map (Record.mk 1)) = b := by
      rw [expand_of_count_one hone, List.map_map]
      exact List.map_id b
    rw [← hb, encRuns_expand hcanon, hb, List.length_map]

theorem mruns_replicate (n : Nat) (v : Byte) : mruns (List.replicate (n + 1) v) = [(n + 1, v)] := by
  have h := mruns_replicate_append (v := v) (xs := []) nofun n
  rwa [List.append_nil] at h

theorem encRuns_replicate (n : Nat) (v : Byte) : encRuns (List.replicate n v) = split n v := by
  cases n with
  | zero => simp [encRuns, mruns, split]
  | succ n => rw [encRuns, mruns_replicate, List.flatMap_singleton]

/-- Settles O50: the counts sum to the length, each is in 1 to 65535, and a record is three bytes. -/
theorem sizeBounds : Obligations.SizeBounds := by
  unfold Obligations.SizeBounds
  refine ⟨fun b => ?_, fun n v => ?_, fun e b h => ?_⟩
  · have hle := length_le_expand (isCanonical_encRuns b).1
    have hge := expand_length_le (encRuns b)
    rw [expand_encRuns] at hle hge
    rw [encode_length]
    refine ⟨by omega, by omega, ?_⟩
    rw [Nat.mul_right_inj (by decide), encRuns_length_eq_iff, List.isChain_iff_getElem]
  · rw [encode_length, encRuns_replicate, split_length]
  · obtain ⟨rs, rfl, rfl⟩ := decode_eq_ok h
    have hdiv : (serialize rs).length / 3 = rs.length := by
      rw [serialize_length]
      exact Nat.mul_div_cancel_left _ (by decide)
    refine ⟨hdiv ▸ expand_length_le rs, fun rs' hrs' => ?_⟩
    rw [deserialize_serialize, Option.some.injEq] at hrs'
    rw [expand_length, hrs']

end Sys2Proof.Codec

/-! PROOFS. O51: the encoder invariant of R99. -/

namespace Sys2Proof.Machine

/-! ### Taking and putting as amounts -/

/-- The bytes `taken` left the head of `din` and were counted off REM. -/
def State.Took (s t : State) (taken : List Byte) : Prop :=
  s.din = taken ++ t.din ∧ s.rem.toNat = taken.length + t.rem.toNat

theorem State.Took.nil {s t : State} (hdin : t.din = s.din) (hrem : t.rem = s.rem) : s.Took t [] :=
  ⟨hdin.symm, by rw [hrem, List.length_nil, Nat.zero_add]⟩

theorem State.Took.single {s t : State} {b : Byte} (hdin : s.din = b :: t.din)
    (hrem : t.rem.toNat + 1 = s.rem.toNat) : s.Took t [b] :=
  ⟨hdin, by rw [List.length_singleton]; omega⟩

/-- The rows of the encoder's states stay in them or go to RESP (R84). -/
theorem TableRow.encoder {s t : State} (h : TableRow s t) (hs : s.st = .encScan ∨ s.st = .encEmit) :
    t.st = .encScan ∨ t.st = .encEmit ∨ t.st = .resp := by
  cases h <;> simp_all

/-- The rows of the decoder's states stay in them or go to RESP (R84). -/
theorem TableRow.decoder {s t : State} (h : TableRow s t) (hs : s.st = .decFetch ∨ s.st = .decExpand) :
    t.st = .decFetch ∨ t.st = .decExpand ∨ t.st = .resp := by
  cases h <;> simp_all

/-! ### The encoder invariant -/

theorem State.latchList_encEmit {s : State} (h : s.st = .encEmit) : s.latchList = [s.latched] := if_pos h

theorem State.latchList_nil {s : State} (h : s.st ≠ .encEmit) : s.latchList = [] := if_neg h

theorem State.openList_open {s : State} (h : s.runValid = true) : s.openList = [s.openRecord] := if_pos h

theorem State.openList_nil {s : State} (h : s.runValid = false) : s.openList = [] := by simp [State.openList, h]

/-- Outside ENC_EMIT the records put are all of the fold but the open run. -/
theorem State.encodesSoFar_iff {s : State} {base p : List Byte} (hs : s.st ≠ .encEmit) :
    s.EncodesSoFar base p ↔ (s.st = .encScan → s.runValid = false → p = []) ∧
      ∃ done, done ++ s.openList = Codec.encFold p ∧ s.dout = base ++ Codec.serialize done := by
  simp only [State.EncodesSoFar, State.latchList_nil hs, if_neg hs, List.append_nil]

/-- In ENC_EMIT the latched record comes between them, SER_IDX of its bytes put. -/
theorem State.encodesSoFar_encEmit_iff {s : State} {base p : List Byte} (hs : s.st = .encEmit) :
    s.EncodesSoFar base p ↔ ∃ done, done ++ [s.latched] ++ s.openList = Codec.encFold p ∧
      s.dout = base ++ Codec.serialize done ++ (pack s.latched).take s.serIdx.toNat := by
  have hscan : s.st ≠ .encScan := by rw [hs]; decide
  simp only [State.EncodesSoFar, State.latchList_encEmit hs, if_pos hs, hscan, false_implies, true_and]

/-- EncAdvance keeps what has been put, wherever it goes on (R98). -/
theorem State.encAdvance_encodes {s : State} {base p : List Byte} {done : List Record}
    (hdone : done ++ s.openList = Codec.encFold p) (hdout : s.dout = base ++ Codec.serialize done)
    (hopen : 0 < s.rem.toNat → s.runValid = true) : s.encAdvance.EncodesSoFar base p := by
  rcases s.encAdvance_cases with ⟨hr, he⟩ | ⟨_, hv, he⟩ | ⟨_, _, he⟩ <;> rw [he]
  · exact (State.encodesSoFar_iff (s := s.goto .encScan) nofun).2
      ⟨fun _ hv => absurd (hv.symm.trans (hopen hr)) nofun, done, hdone, hdout⟩
  · rw [State.openList_open hv] at hdone
    refine (State.encodesSoFar_encEmit_iff rfl).2 ⟨done, ?_, ?_⟩
    · rw [← hdone, State.openList_nil rfl, List.append_nil]
      rfl
    · exact hdout.trans (List.append_nil _).symm
  · exact (State.encodesSoFar_iff (s := s.goto .resp) nofun).2 ⟨nofun, done, hdone, hdout⟩

/-- The byte taken is the fold's next (R93, R97). -/
theorem State.scan_encodes {s : State} {base p : List Byte} (hs : s.st = .encScan) (h : s.EncodesSoFar base p)
    (b : Byte) : (s.popDin.encScanByte b).EncodesSoFar base (p ++ [b]) := by
  obtain ⟨hfresh, done, hdone, hdout⟩ := (State.encodesSoFar_iff (by rw [hs]; decide)).1 h
  have hfold := Codec.encFold_append_singleton p b
  rcases s.popDin.encScanByte_cases b with ⟨hv, he⟩ | ⟨hv, hb, hlt, he⟩ | ⟨hv, hne, he⟩ <;>
    rw [State.popDin_runValid] at hv <;> rw [he]
  · obtain rfl := hfresh hs hv
    rw [State.openList_nil hv, List.append_nil] at hdone
    refine State.encAdvance_encodes (done := done) ?_ hdout fun _ => rfl
    rw [hfold, ← hdone, hdone]
    rfl
  all_goals rw [State.openList_open hv] at hdone
  · refine State.encAdvance_encodes (done := done) ?_ hdout fun _ => hv
    rw [hfold, ← hdone, Codec.snoc_append, if_pos ⟨hb.symm, hlt⟩, State.openList_open (by exact hv)]
    rfl
  · refine (State.encodesSoFar_encEmit_iff rfl).2 ⟨done, ?_, hdout.trans (List.append_nil _).symm⟩
    have hcut : ¬ (s.openRecord.value = b ∧ s.openRecord.count.toNat < 65535) := fun ⟨hb, hlt⟩ =>
      hne.elim (fun h => h hb.symm) (fun h => absurd h (Nat.ne_of_lt hlt))
    rw [hfold, ← hdone, Codec.snoc_append, if_neg hcut, State.openList_open (by exact hv)]
    simp [State.latched, State.openRecord, State.latchRun]

/-- The byte put is the latched record's next; after the third the record is one of those put (R99, R110). -/
theorem State.emit_encodes {s : State} {base p : List Byte} (hs : s.st = .encEmit)
    (hlast : s.runValid = false → s.rem = 0) (h : s.EncodesSoFar base p) : s.serBeat.EncodesSoFar base p := by
  obtain ⟨done, hdone, hdout⟩ := (State.encodesSoFar_encEmit_iff hs).1 h
  cases hi : s.serIdx with
  | high =>
    rw [State.serBeat_high hi]
    refine (State.encodesSoFar_encEmit_iff (by exact hs)).2 ⟨done, hdone, ?_⟩
    simp [hdout, hi, RecIdx.toNat, pack, State.latched]
  | low =>
    rw [State.serBeat_low hi]
    refine (State.encodesSoFar_encEmit_iff (by exact hs)).2 ⟨done, hdone, ?_⟩
    simp [hdout, hi, RecIdx.toNat, pack, State.latched]
  | value =>
    rw [State.serBeat_value hi]
    refine State.encAdvance_encodes (done := done ++ [s.latched]) hdone ?_ fun hr => ?_
    · simp [hdout, hi, RecIdx.toNat, pack, State.latched, Codec.serialize_append, Codec.serialize_singleton]
    · exact Bool.not_eq_false _ ▸ fun hv => absurd (hlast hv) (len_pos_iff.1 hr)

theorem State.TookCmd.cmd_ne {s t : State} {c : CmdToken} (h : s.TookCmd t c) : t.cmd ≠ s.cmd := by
  obtain ⟨hcmd, _⟩ := h
  intro heq
  simp [heq] at hcmd

theorem execEncode_started {l : Len} {s t : State} (h : execEncode l.toNat s = .next t) (hne : t.cmd ≠ s.cmd) :
    t = s.startCommand l .encScan := by
  rcases execEncode_next h with rfl | ⟨_, l', _, hl, _, ht⟩
  · exact absurd rfl hne
  · obtain rfl := BitVec.eq_of_toNat_eq hl
    simp only [len_eq_zero_iff] at ht
    exact ht

theorem State.startCommand_encodes (s : State) (l : Len) : (s.startCommand l .encScan).EncodesSoFar s.dout [] := by
  have hs : (s.startCommand l .encScan).st ≠ .encEmit := by
    change (if l.toNat = 0 then Phase.resp else Phase.encScan) ≠ .encEmit
    split <;> decide
  exact (State.encodesSoFar_iff hs).2 ⟨fun _ _ => rfl, [], rfl, (List.append_nil _).symm⟩

/-- An event of the encoder takes a byte or puts one, and the invariant follows it (R99). -/
theorem State.Event.encodes {s t : State} {base p : List Byte} (he : s.Event t) (hinv : s.Inv)
    (hs : s.st = .encScan ∨ s.st = .encEmit) (h : s.EncodesSoFar base p) :
    ∃ taken, s.Took t taken ∧ t.EncodesSoFar base (p ++ taken) := by
  rcases hs with hs | hs
  · obtain ⟨hr, b, d, hd, rfl⟩ := he.of_encScan hs
    obtain ⟨hdin, _⟩ := State.encScanByte_takes hd b
    exact ⟨[b], .single hdin (State.encScanByte_rem hr b), State.scan_encodes hs h b⟩
  · obtain rfl := he.of_encEmit hs
    obtain ⟨_, _, _, hlast, _⟩ := (State.inv_encEmit hs).1 hinv
    obtain ⟨_, _, hdin, _⟩ := s.serBeat_puts
    obtain ⟨hrem, _⟩ := s.serBeat_frame
    exact ⟨[], .nil hdin hrem, (List.append_nil p).symm ▸ State.emit_encodes hs hlast h⟩

/-- At the response nothing is open and nothing latched, so all records have been put. -/
theorem State.EncodesSoFar.resp {s : State} {base p : List Byte} (hinv : s.Inv) (hs : s.st = .resp)
    (h : s.EncodesSoFar base p) : s.dout = base ++ Codec.encode p := by
  obtain ⟨_, hv, _⟩ := (State.inv_idle_or_resp (.inr hs)).1 hinv
  obtain ⟨_, done, hdone, hdout⟩ := (State.encodesSoFar_iff (by rw [hs]; decide)).1 h
  rw [State.openList_nil hv, List.append_nil, Codec.encFold_eq_encRuns] at hdone
  rw [hdout, hdone, Codec.encode]

/-- Settles O51: ENCODE starts with nothing taken and nothing put, each event of the encoder keeps the invariant, and at
the response it is the whole output. -/
theorem encoderTracksTheFold : Obligations.EncoderTracksTheFold := by
  unfold Obligations.EncoderTracksTheFold
  refine ⟨fun s t len hlen h htook => ?_, fun base p s t hinv hs h hr hstep => ?_,
    fun _ _ _ => State.EncodesSoFar.resp⟩
  · obtain rfl := execEncode_started h htook.cmd_ne
    exact ⟨State.startCommand_st _ hlen, s.startCommand_encodes len⟩
  · rcases step_event hr hstep with rfl | he
    · exact ⟨[], rfl, (Nat.zero_add _).symm, (List.append_nil p).symm ▸ h, hs.imp_right .inl⟩
    · obtain ⟨taken, ⟨hdin, hrem⟩, ht⟩ := he.encodes (State.tick_inv.2 hinv) hs h
      exact ⟨taken, hdin, hrem, ht, he.tableRow.encoder hs⟩

end Sys2Proof.Machine

/-! PROOFS. O52: the decoder invariant of R123. -/

namespace Sys2Proof.Machine

/-- What DES_IDX says of the bytes `part` of the record in progress: how many there are, and where they are (R120). -/
def State.InProgress (s : State) (part : List Byte) : Prop :=
  part.length = s.desIdx.toNat ∧ (1 ≤ s.desIdx.toNat → part.head? = some s.desHi) ∧
    (s.desIdx.toNat = 2 → ∃ b0 b1, part = [b0, b1] ∧ s.expCount = countOf b0 b1)

theorem State.inProgress_high {s : State} (hi : s.desIdx = .high) {part : List Byte} :
    s.InProgress part ↔ part = [] := by
  simp [State.InProgress, hi, RecIdx.toNat]

theorem State.inProgress_low {s : State} (hi : s.desIdx = .low) {part : List Byte} :
    s.InProgress part ↔ part = [s.desHi] := by
  simp only [State.InProgress, hi, RecIdx.toNat]
  constructor
  · rintro ⟨hlen, hhead, _⟩
    obtain ⟨b, rfl⟩ := List.length_eq_one_iff.1 hlen
    simpa using hhead le_rfl
  · rintro rfl
    simp

theorem State.inProgress_value {s : State} (hi : s.desIdx = .value) {part : List Byte} :
    s.InProgress part ↔ ∃ b0 b1, part = [b0, b1] ∧ s.desHi = b0 ∧ s.expCount = countOf b0 b1 := by
  simp only [State.InProgress, hi, RecIdx.toNat]
  constructor
  · rintro ⟨_, hhead, hpart⟩
    obtain ⟨b0, b1, rfl, hcount⟩ := hpart trivial
    exact ⟨b0, b1, rfl, by simpa [eq_comm] using hhead, hcount⟩
  · rintro ⟨b0, b1, rfl, rfl, hcount⟩
    exact ⟨rfl, fun _ => rfl, fun _ => ⟨_, b1, rfl, hcount⟩⟩

/-- Outside DEC_EXPAND all complete records have been expanded. -/
theorem State.decodesSoFar_iff {s : State} {base p : List Byte} (hs : s.st ≠ .decExpand) :
    s.DecodesSoFar base p ↔ ∃ rs part, p = Codec.serialize rs ++ part ∧ s.InProgress part ∧
      s.dout = base ++ Codec.expand rs := by
  simp only [State.DecodesSoFar, State.InProgress, if_neg hs, and_assoc]

/-- In DEC_EXPAND some copies of the last record are still to be put. -/
theorem State.decodesSoFar_decExpand_iff {s : State} {base p : List Byte} (hs : s.st = .decExpand)
    (hi : s.desIdx = .high) :
    s.DecodesSoFar base p ↔ ∃ (rs : List Record) (r : Record), p = Codec.serialize (rs ++ [r]) ∧
      r.value = s.expValue ∧ s.expCount.toNat ≤ r.count.toNat ∧
      s.dout = base ++ Codec.expand rs ++ List.replicate (r.count.toNat - s.expCount.toNat) r.value := by
  have hpart : ∀ part, (part.length = s.desIdx.toNat ∧ (1 ≤ s.desIdx.toNat → part.head? = some s.desHi) ∧
      (s.desIdx.toNat = 2 → ∃ b0 b1, part = [b0, b1] ∧ s.expCount = countOf b0 b1)) ↔ part = [] :=
    fun _ => State.inProgress_high hi
  simp only [State.DecodesSoFar, if_pos hs]
  constructor
  · rintro ⟨_, part, hp, hlen, hhead, hcount, rs, r, rfl, hr⟩
    obtain rfl := (hpart part).1 ⟨hlen, hhead, hcount⟩
    exact ⟨rs, r, by rw [hp, List.append_nil], hr⟩
  · rintro ⟨rs, r, hp, hr⟩
    obtain ⟨hlen, hhead, hcount⟩ := (hpart []).2 rfl
    exact ⟨_, [], by rw [hp, List.append_nil], hlen, hhead, hcount, rs, r, rfl, hr⟩

/-- DecAdvance keeps what has been put, wherever it goes on (R121). -/
theorem State.decAdvance_decodes {s : State} {base : List Byte} {rs : List Record} (hi : s.desIdx = .high)
    (hdout : s.dout = base ++ Codec.expand rs) : s.decAdvance.DecodesSoFar base (Codec.serialize rs) := by
  rcases s.decAdvance_cases with ⟨_, he⟩ | ⟨_, he⟩ <;> rw [he]
  · exact (State.decodesSoFar_iff (s := s.goto .decFetch) nofun).2
      ⟨rs, [], (List.append_nil _).symm, (State.inProgress_high hi).2 rfl, hdout⟩
  · exact (State.decodesSoFar_iff (s := s.goto .resp) nofun).2
      ⟨rs, [], (List.append_nil _).symm, (State.inProgress_high hi).2 rfl, hdout⟩

/-- The byte taken is the record's next; after the third the record is complete (R107, R120). -/
theorem State.fetch_decodes {s : State} {base p : List Byte} (hs : s.st = .decFetch) (h : s.DecodesSoFar base p)
    (b : Byte) : (s.popDin.fetchByte b).DecodesSoFar base (p ++ [b]) := by
  have hne : s.st ≠ .decExpand := by rw [hs]; decide
  obtain ⟨rs, part, rfl, hpart, hdout⟩ := (State.decodesSoFar_iff hne).1 h
  cases hi : s.desIdx with
  | high =>
    obtain rfl := (State.inProgress_high hi).1 hpart
    rw [State.fetchByte_high (s := s.popDin) b hi]
    exact (State.decodesSoFar_iff (by exact hne)).2
      ⟨rs, [b], by rw [List.append_nil], (State.inProgress_low rfl).2 rfl, hdout⟩
  | low =>
    obtain rfl := (State.inProgress_low hi).1 hpart
    rw [State.fetchByte_low (s := s.popDin) b hi]
    exact (State.decodesSoFar_iff (by exact hne)).2
      ⟨rs, [s.desHi, b], by simp, (State.inProgress_value rfl).2 ⟨_, b, rfl, rfl, rfl⟩, hdout⟩
  | value =>
    obtain ⟨b0, b1, rfl, _, hcount⟩ := (State.inProgress_value hi).1 hpart
    have hp : Codec.serialize rs ++ [b0, b1] ++ [b] = Codec.serialize (rs ++ [unpack b0 b1 b]) := by
      rw [Codec.serialize_append, Codec.serialize_singleton, pack_unpack, List.append_assoc]
      rfl
    rw [hp]
    rcases State.fetchByte_value (s := s.popDin) b hi with ⟨_, he⟩ | ⟨hzero, he⟩ <;> rw [he]
    · refine (State.decodesSoFar_decExpand_iff rfl rfl).2 ⟨rs, unpack b0 b1 b, rfl, rfl, ?_, ?_⟩
      · exact (congrArg BitVec.toNat hcount).le
      · simp [hdout, hcount, unpack]
    · refine State.decAdvance_decodes rfl ?_
      rw [State.popDin_expCount, hcount] at hzero
      simp [hdout, Codec.expand_append, Codec.expand_singleton, unpack, hzero]

/-- The copy put is one of those still to be put; after the last the record is expanded (R122). -/
theorem State.expand_decodes {s : State} {base p : List Byte} (hs : s.st = .decExpand) (hi : s.desIdx = .high)
    (hc : 0 < s.expCount.toNat) (h : s.DecodesSoFar base p) : s.expandBeat.DecodesSoFar base p := by
  obtain ⟨rs, r, rfl, hvalue, hle, hdout⟩ := (State.decodesSoFar_decExpand_iff hs hi).1 h
  have hcopies : s.dout ++ [s.expValue] = base ++ Codec.expand rs ++
      List.replicate (r.count.toNat - (s.expCount - 1).toNat) r.value := by
    have hnext : r.count.toNat - (s.expCount - 1).toNat = r.count.toNat - s.expCount.toNat + 1 := by
      rw [count_pred_toNat hc]
      omega
    rw [hnext, List.replicate_succ', hdout, hvalue, List.append_assoc]
  rcases s.expandBeat_cases with ⟨hlast, he⟩ | ⟨_, he⟩ <;> rw [he]
  · refine State.decAdvance_decodes (by exact hi) ?_
    rw [hlast] at hcopies
    simpa [Codec.expand_append, Codec.expand_singleton] using hcopies
  · exact (State.decodesSoFar_decExpand_iff (by exact hs) (by exact hi)).2
      ⟨rs, r, rfl, hvalue, by simp only [State.setExpCount_expCount, count_pred_toNat hc]; omega, hcopies⟩

theorem execDecode_started {l : Len} {s t : State} (h : execDecode l.toNat s = .next t) (hne : t.cmd ≠ s.cmd)
    (hm : l.toNat % 3 = 0) : t = s.startCommand l .decFetch := by
  rcases execDecode_next h with rfl | ⟨_, l', _, hl, _, ⟨hm', _⟩ | ⟨_, ht⟩⟩
  · exact absurd rfl hne
  · exact absurd hm hm'
  · obtain rfl := BitVec.eq_of_toNat_eq hl
    simp only [len_eq_zero_iff] at ht
    exact ht

theorem State.startCommand_decodes (s : State) (l : Len) : (s.startCommand l .decFetch).DecodesSoFar s.dout [] := by
  have hs : (s.startCommand l .decFetch).st ≠ .decExpand := by
    change (if l.toNat = 0 then Phase.resp else Phase.decFetch) ≠ .decExpand
    split <;> decide
  exact (State.decodesSoFar_iff hs).2 ⟨[], [], rfl, (State.inProgress_high rfl).2 rfl, (List.append_nil _).symm⟩

/-- An event of the decoder takes a byte or puts one, and the invariant follows it (R123). -/
theorem State.Event.decodes {s t : State} {base p : List Byte} (he : s.Event t) (hinv : s.Inv)
    (hs : s.st = .decFetch ∨ s.st = .decExpand) (h : s.DecodesSoFar base p) :
    ∃ taken, s.Took t taken ∧ t.DecodesSoFar base (p ++ taken) := by
  rcases hs with hs | hs
  · obtain ⟨hr, b, d, hd, rfl⟩ := he.of_decFetch hs
    obtain ⟨hdin, _⟩ := State.fetchByte_takes hd b
    exact ⟨[b], .single hdin (State.fetchByte_rem hr b), State.fetch_decodes hs h b⟩
  · obtain ⟨hc, rfl⟩ := he.of_decExpand hs
    obtain ⟨_, _, hi, _⟩ := (State.inv_decExpand hs).1 hinv
    obtain ⟨_, _, hdin, _⟩ := s.expandBeat_puts
    obtain ⟨hrem, _⟩ := s.expandBeat_frame
    exact ⟨[], .nil hdin hrem, (List.append_nil p).symm ▸ State.expand_decodes hs hi hc h⟩

/-- At the response no record is in progress, so all bytes taken are records that have been expanded. -/
theorem State.DecodesSoFar.resp {s : State} {base p : List Byte} (hinv : s.Inv) (hs : s.st = .resp)
    (h : s.DecodesSoFar base p) : ∃ b, Codec.decode p = .ok b ∧ s.dout = base ++ b := by
  obtain ⟨_, _, _, hi⟩ := (State.inv_idle_or_resp (.inr hs)).1 hinv
  obtain ⟨rs, part, rfl, hpart, hdout⟩ := (State.decodesSoFar_iff (by rw [hs]; decide)).1 h
  obtain rfl := (State.inProgress_high hi).1 hpart
  exact ⟨Codec.expand rs, by rw [List.append_nil, Codec.decode_serialize], hdout⟩

/-- Settles O52: DECODE starts with nothing taken and nothing put, each event of the decoder keeps the invariant, and at
the response it is the whole output. -/
theorem decoderTracksTheExpansion : Obligations.DecoderTracksTheExpansion := by
  unfold Obligations.DecoderTracksTheExpansion
  refine ⟨fun s t len hlen hm h htook => ?_, fun base p s t hinv hs h hr hstep => ?_,
    fun _ _ _ => State.DecodesSoFar.resp⟩
  · obtain rfl := execDecode_started h htook.cmd_ne hm
    exact ⟨State.startCommand_st _ hlen, s.startCommand_decodes len⟩
  · rcases step_event hr hstep with rfl | he
    · exact ⟨[], rfl, (Nat.zero_add _).symm, (List.append_nil p).symm ▸ h, hs.imp_right .inl⟩
    · obtain ⟨taken, ⟨hdin, hrem⟩, ht⟩ := he.decodes (State.tick_inv.2 hinv) hs h
      exact ⟨taken, hdin, hrem, ht, he.tableRow.decoder hs⟩

end Sys2Proof.Machine

/-! PROOFS. O58, O59: a step reads of its inputs only the token it takes (R41 d, R54, R55). -/

namespace Sys2Proof.Machine

/-! ### What a step is, from the state alone -/

theorem State.Event.countersReady {s t : State} (h : s.Event t) : s.CountersReady := by
  cases h with
  | scan _ _ hs hr => exact ⟨fun _ => hr, fun hx => absurd (hs.symm.trans hx) nofun⟩
  | fetch _ _ hs hr => exact ⟨fun _ => hr, fun hx => absurd (hs.symm.trans hx) nofun⟩
  | expand hs hc => exact ⟨fun hx => by simp [hs] at hx, fun _ => hc⟩
  | encode _ _ hs | decode _ _ hs | refuse _ _ hs | emit hs | respond hs => simp [State.CountersReady, hs]

/-- Nothing can happen: no handshake is made, or the counter of what ST selects is 0. -/
def State.Blocked (s : State) : Prop := s.handshake s.edge = false ∨ ¬ s.CountersReady

theorem State.Event.not_blocked {s t : State} (h : s.tick.Event t) (hh : s.handshake s.edge = true) : ¬ s.Blocked := by
  rintro (hno | hno)
  · exact absurd (hh.symm.trans hno) nofun
  · exact hno h.countersReady

/-- With its handshake made a step is an event, but where a counter is 0. -/
theorem step_cases_blocked {s t : State} (hr : s.edge.rst = false) (h : step s = .next t) :
    (s.handshake s.edge = true ∧ s.tick.Event t) ∨ (s.Blocked ∧ t = s.tick) := by
  cases hh : s.handshake s.edge with
  | false =>
    rw [step_waits hr hh] at h
    exact .inr ⟨.inl hh, (Host.Outcome.next.inj h).symm⟩
  | true =>
    rcases step_event hr h with rfl | he
    · refine .inr ⟨.inr fun hc => ?_, rfl⟩
      obtain ⟨u, hu, he⟩ := step_event_of_handshake hc hr hh
      rw [h] at hu
      obtain rfl := Host.Outcome.next.inj hu
      exact he.not_noToken (.refl _)
    · exact .inl ⟨rfl, he⟩

theorem step_of_blocked {s : State} (hr : s.edge.rst = false) (h : s.Blocked) : step s = .next s.tick := by
  obtain ⟨t, ht⟩ := step_total s
  rcases step_cases_blocked hr ht with ⟨hh, he⟩ | ⟨_, rfl⟩
  · exact absurd h (he.not_blocked hh)
  · exact ht

/-! ### Replacing what is on the input channels -/

/-- The same with other commands and other bytes to come. -/
def State.withInputs (s : State) (cs : List CmdToken) (ds : List Byte) : State := { s with cmd := cs, din := ds }

theorem State.encAdvance_withInputs (s : State) (cs : List CmdToken) (ds : List Byte) :
    (s.withInputs cs ds).encAdvance = s.encAdvance.withInputs cs ds := by
  rcases s.encAdvance_cases with ⟨h, he⟩ | ⟨h, hv, he⟩ | ⟨h, hv, he⟩ <;> rw [he]
  · exact State.encAdvance_scan (s := s.withInputs cs ds) h
  · exact State.encAdvance_flush (s := s.withInputs cs ds) h hv
  · exact State.encAdvance_done (s := s.withInputs cs ds) h hv

theorem State.decAdvance_withInputs (s : State) (cs : List CmdToken) (ds : List Byte) :
    (s.withInputs cs ds).decAdvance = s.decAdvance.withInputs cs ds := by
  rcases s.decAdvance_cases with ⟨h, he⟩ | ⟨h, he⟩ <;> rw [he]
  · exact State.decAdvance_fetch (s := s.withInputs cs ds) h
  · exact State.decAdvance_done (s := s.withInputs cs ds) h

theorem State.encScanByte_withInputs (s : State) (b : Byte) (cs : List CmdToken) (ds : List Byte) :
    (s.withInputs cs ds).encScanByte b = (s.encScanByte b).withInputs cs ds := by
  rw [State.encScanByte_eq, State.encScanByte_eq, apply_ite (State.withInputs · cs ds),
    apply_ite (State.withInputs · cs ds), ← State.encAdvance_withInputs, ← State.encAdvance_withInputs]
  rfl

theorem State.serBeat_withInputs (s : State) (cs : List CmdToken) (ds : List Byte) :
    (s.withInputs cs ds).serBeat = s.serBeat.withInputs cs ds := by
  cases hi : s.serIdx
  · rw [State.serBeat_high hi, State.serBeat_high (s := s.withInputs cs ds) hi]; rfl
  · rw [State.serBeat_low hi, State.serBeat_low (s := s.withInputs cs ds) hi]; rfl
  · rw [State.serBeat_value hi, State.serBeat_value (s := s.withInputs cs ds) hi, ← State.encAdvance_withInputs]; rfl

theorem State.fetchByte_withInputs (s : State) (b : Byte) (cs : List CmdToken) (ds : List Byte) :
    (s.withInputs cs ds).fetchByte b = (s.fetchByte b).withInputs cs ds := by
  cases hi : s.desIdx
  · rw [State.fetchByte_high b hi, State.fetchByte_high (s := s.withInputs cs ds) b hi]; rfl
  · rw [State.fetchByte_low b hi, State.fetchByte_low (s := s.withInputs cs ds) b hi]; rfl
  · simp only [State.fetchByte, show (s.withInputs cs ds).desIdx = .value from hi, hi]
    rw [apply_ite (State.withInputs · cs ds), ← State.decAdvance_withInputs]
    rfl

theorem State.expandBeat_withInputs (s : State) (cs : List CmdToken) (ds : List Byte) :
    (s.withInputs cs ds).expandBeat = s.expandBeat.withInputs cs ds := by
  have hcount : (s.withInputs cs ds).expCount = s.expCount := rfl
  by_cases hc : s.expCount - 1 = 0 <;>
    simp only [State.expandBeat, State.setExpCount_expCount, hcount, hc, if_true, if_false]
  · rw [← State.decAdvance_withInputs]; rfl
  · rfl

/-- A take reads the byte at the head alone. -/
theorem State.Event.take_withInputs {s t : State} {b : Byte} {d : List Byte} (h : s.Event t)
    (hs : s.st = .encScan ∨ s.st = .decFetch) (hd : s.din = b :: d) (cs : List CmdToken) (ds : List Byte) :
    (s.withInputs cs (b :: ds)).Event (t.withInputs cs ds) := by
  rcases hs with hs | hs
  · obtain ⟨hr, b', _, hd', rfl⟩ := h.of_encScan hs
    obtain ⟨rfl, _⟩ := List.cons.inj (hd.symm.trans hd')
    rw [← State.encScanByte_withInputs]
    exact .scan (s := s.withInputs cs (b :: ds)) b ds hs hr rfl
  · obtain ⟨hr, b', _, hd', rfl⟩ := h.of_decFetch hs
    obtain ⟨rfl, _⟩ := List.cons.inj (hd.symm.trans hd')
    rw [← State.fetchByte_withInputs]
    exact .fetch (s := s.withInputs cs (b :: ds)) b ds hs hr rfl

/-- A put and a response read neither input channel. -/
theorem State.Event.output_withInputs {s t : State} (h : s.Event t)
    (hs : s.st = .encEmit ∨ s.st = .decExpand ∨ s.st = .resp) (cs : List CmdToken) (ds : List Byte) :
    (s.withInputs cs ds).Event (t.withInputs cs ds) := by
  rcases hs with hs | hs | hs
  · rw [h.of_encEmit hs, ← State.serBeat_withInputs]
    exact .emit hs
  · obtain ⟨hc, rfl⟩ := h.of_decExpand hs
    rw [← State.expandBeat_withInputs]
    exact .expand hs hc
  · rw [h.of_resp hs]
    exact .respond (s := s.withInputs cs ds) hs

/-- Taking a command reads no byte. -/
theorem State.Event.command_withInputs {s t : State} (h : s.Event t) (hs : s.st = .idle) (ds : List Byte) :
    (s.withInputs s.cmd ds).Event (t.withInputs t.cmd ds) := by
  obtain ⟨l, q, ⟨hc, rfl⟩ | ⟨hc, ⟨hm, rfl⟩ | ⟨hm, rfl⟩⟩⟩ := h.of_idle hs
  · exact .encode (s := s.withInputs s.cmd ds) l q hs hc
  · exact .decode (s := s.withInputs s.cmd ds) l q hs hc hm
  · exact .refuse (s := s.withInputs s.cmd ds) l q hs hc hm

theorem State.withInputs_edge (s : State) (cs : List CmdToken) (ds : List Byte) : (s.withInputs cs ds).edge = s.edge :=
  rfl

/-- Outside IDLE a handshake does not depend on the commands. -/
theorem State.withCmd_handshake {s : State} (hs : s.st ≠ .idle) (cs : List CmdToken) (e : Edge) :
    (s.withInputs cs s.din).handshake e = s.handshake e := by
  have hready : s.cmdReady = false := decide_eq_false hs
  have hready' : (s.withInputs cs s.din).cmdReady = false := hready
  rw [State.handshake, State.handshake, hready, hready', Bool.and_false, Bool.and_false]
  rfl

theorem State.Event.withCmd {s t : State} (h : s.Event t) (hs : s.st ≠ .idle) (cs : List CmdToken) :
    t.cmd = s.cmd ∧ (s.withInputs cs s.din).Event (t.withInputs cs t.din) := by
  rcases h.token with ⟨hidle, _⟩ | ⟨hst, _, _, b, hd, hc, _⟩ | ⟨hst, _, _, b, _, _, hc, hd, _⟩ |
    ⟨hst, _, _, _, hc, hd, _⟩
  · exact absurd hidle hs
  · exact ⟨hc, hd ▸ h.take_withInputs hst hd cs t.din⟩
  · exact ⟨hc, hd ▸ h.output_withInputs (hst.imp_right .inl) cs t.din⟩
  · exact ⟨hc, hd ▸ h.output_withInputs (.inr (.inr hst)) cs t.din⟩

/-- Settles O58: outside IDLE neither the handshake nor the event reads the commands. -/
theorem commandIsReadOnlyWhenTaken : Obligations.CommandIsReadOnlyWhenTaken := by
  unfold Obligations.CommandIsReadOnlyWhenTaken
  intro s t cs hs hr h
  have hhand := State.withCmd_handshake hs cs s.edge
  rcases step_cases_blocked hr h with ⟨hh, he⟩ | ⟨hb, rfl⟩
  · obtain ⟨hcmd, he'⟩ := he.withCmd hs cs
    exact ⟨hcmd, step_of_event (s := s.withInputs cs s.din) hr (hhand.trans hh) he'⟩
  · exact ⟨rfl, step_of_blocked (s := s.withInputs cs s.din) hr (hb.imp_left hhand.trans)⟩

/-! ### Replacing the bytes -/

/-- Where no byte can be taken a handshake does not depend on the bytes. -/
theorem State.withDin_handshake {s : State} (hs : ¬ (s.st = .encScan ∨ s.st = .decFetch)) (ds : List Byte) (e : Edge) :
    (s.withInputs s.cmd ds).handshake e = s.handshake e := by
  have hready : s.dinReady = false := decide_eq_false hs
  have hready' : (s.withInputs s.cmd ds).dinReady = false := hready
  rw [State.handshake, State.handshake, hready, hready', Bool.and_false, Bool.and_false]
  rfl

theorem State.handshake_take {s : State} (e : Edge) (hs : s.st = .encScan ∨ s.st = .decFetch) :
    s.handshake e = s.dinValid e :=
  hs.elim (State.handshake_encScan e) (State.handshake_decFetch e)

/-- A block that cannot take the byte at the head cannot take another one either: `din_valid` is not raised or REM is
0. -/
theorem State.Blocked.withDin {s : State} {b : Byte} {d : List Byte} (h : s.Blocked) (hd : s.din = b :: d)
    (ds : List Byte) : (s.withInputs s.cmd ds).Blocked := by
  refine h.imp_left fun hh => ?_
  rw [State.withInputs_edge]
  by_cases hs : s.st = .encScan ∨ s.st = .decFetch
  · rw [State.handshake_take _ hs, State.dinValid, hd, List.isEmpty_cons, Bool.not_false, Bool.and_true] at hh
    rw [State.handshake_take (s := s.withInputs s.cmd ds) _ hs, State.dinValid]
    exact Bool.and_eq_false_imp.2 fun hv => absurd (hh.symm.trans hv) nofun
  · rw [State.withDin_handshake hs, hh]

/-- One byte on offer is as good as another. -/
theorem State.withTail_handshake {s : State} {b : Byte} {d : List Byte} (hs : s.st = .encScan ∨ s.st = .decFetch)
    (hd : s.din = b :: d) (ds : List Byte) (e : Edge) :
    (s.withInputs s.cmd (b :: ds)).handshake e = s.handshake e := by
  rw [State.handshake_take _ hs, State.handshake_take (s := s.withInputs s.cmd (b :: ds)) _ hs, State.dinValid,
    State.dinValid, hd]
  rfl

theorem State.Event.withTail {s t : State} {b : Byte} {d : List Byte} (h : s.Event t)
    (hs : s.st = .encScan ∨ s.st = .decFetch) (hd : s.din = b :: d) (ds : List Byte) :
    t.din = d ∧ (s.withInputs s.cmd (b :: ds)).Event (t.withInputs t.cmd ds) := by
  have htook : s.din = b :: t.din ∧ t.cmd = s.cmd := by
    rcases hs with hs | hs
    · obtain ⟨_, b', _, hd', rfl⟩ := h.of_encScan hs
      obtain ⟨hdin, hcmd, _⟩ := State.encScanByte_takes hd b'
      exact ⟨hdin, hcmd⟩
    · obtain ⟨_, b', _, hd', rfl⟩ := h.of_decFetch hs
      obtain ⟨hdin, hcmd, _⟩ := State.fetchByte_takes hd b'
      exact ⟨hdin, hcmd⟩
  obtain ⟨hdin, hcmd⟩ := htook
  exact ⟨(List.cons.inj (hdin.symm.trans hd)).2, hcmd ▸ h.take_withInputs hs hd s.cmd ds⟩

theorem State.Event.withDin {s t : State} (h : s.Event t) (hs : ¬ (s.st = .encScan ∨ s.st = .decFetch))
    (ds : List Byte) : t.din = s.din ∧ (s.withInputs s.cmd ds).Event (t.withInputs t.cmd ds) := by
  rcases h.token with ⟨hst, _, _, _, _, hd, _⟩ | ⟨hst, _⟩ | ⟨hst, ⟨hc, _⟩, ⟨hd, _⟩, _⟩ | ⟨hst, ⟨hc, _⟩, ⟨hd, _⟩, _⟩
  · exact ⟨hd, h.command_withInputs hst ds⟩
  · exact absurd hst hs
  · exact ⟨hd, hc ▸ h.output_withInputs (hst.imp_right .inl) s.cmd ds⟩
  · exact ⟨hd, hc ▸ h.output_withInputs (.inr (.inr hst)) s.cmd ds⟩

/-- Settles O59: a take reads the byte it takes, no other event reads a byte, and a blocked step none either. -/
theorem noLookAhead : Obligations.NoLookAhead := by
  unfold Obligations.NoLookAhead
  intro s t b d hr hd h
  rcases step_cases_blocked hr h with ⟨hh, he⟩ | ⟨hb, rfl⟩
  · by_cases hs : s.st = .encScan ∨ s.st = .decFetch
    · exact .inl ⟨(he.withTail hs hd []).1, fun ds => step_of_event (s := s.withInputs s.cmd (b :: ds)) hr
        ((State.withTail_handshake hs hd ds _).trans hh) (he.withTail hs hd ds).2⟩
    · exact .inr ⟨(he.withDin hs []).1, fun ds => step_of_event (s := s.withInputs s.cmd ds) hr
        ((State.withDin_handshake hs ds _).trans hh) (he.withDin hs ds).2⟩
  · exact .inr ⟨rfl, fun ds => step_of_blocked (s := s.withInputs s.cmd ds) hr (hb.withDin hd ds)⟩

end Sys2Proof.Machine

/-! PROOFS. O60: no state crosses a transaction (R35, R143). -/

namespace Sys2Proof.Machine

/-! ### Agreement but for ST and what it selects -/

/-- Agreement on the registers that are live whatever ST is, on the channels and on the environment (R35). -/
def State.AgreeCore (s t : State) : Prop :=
  t.rem = s.rem ∧ t.status = s.status ∧ t.runValid = s.runValid ∧ t.serIdx = s.serIdx ∧ t.desIdx = s.desIdx ∧
    (s.runValid = true → t.runValue = s.runValue ∧ t.runCount = s.runCount) ∧ s.SameOutside t

theorem State.AgreeLive.core {s t : State} (h : s.AgreeLive t) : s.AgreeCore t := by
  obtain ⟨_, hrem, hstatus, hv, hser, hdes, hrun, _, _, _, _, hout⟩ := h
  exact ⟨hrem, hstatus, hv, hser, hdes, hrun, hout⟩

/-- In a state of ST that selects no other register, agreement on these is all. -/
theorem State.AgreeCore.live {s t : State} (h : s.AgreeCore t) (hst : t.st = s.st)
    (hser : s.st = .encEmit → t.serCount = s.serCount ∧ t.serValue = s.serValue)
    (hhi : s.st = .decFetch ∧ s.desIdx = .low → t.desHi = s.desHi)
    (hcount : s.st = .decFetch ∧ s.desIdx = .value → t.expCount = s.expCount)
    (hexp : s.st = .decExpand → t.expCount = s.expCount ∧ t.expValue = s.expValue) : s.AgreeLive t := by
  obtain ⟨hrem, hstatus, hv, hserIdx, hdes, hrun, hout⟩ := h
  exact ⟨hst, hrem, hstatus, hv, hserIdx, hdes, hrun, hser, hhi, hcount, hexp, hout⟩

theorem State.AgreeCore.goto {s t : State} (h : s.AgreeCore t) (p : Phase) : (s.goto p).AgreeCore (t.goto p) := h

theorem State.AgreeCore.live_encEmit {s t : State} (h : s.AgreeCore t) (hst : t.st = s.st) (hs : s.st = .encEmit)
    (hser : t.serCount = s.serCount ∧ t.serValue = s.serValue) : s.AgreeLive t :=
  h.live hst (fun _ => hser) (by simp [hs]) (by simp [hs]) (by simp [hs])

theorem State.AgreeCore.live_decFetch {s t : State} (h : s.AgreeCore t) (hst : t.st = s.st) (hs : s.st = .decFetch)
    (hhi : s.desIdx = .low → t.desHi = s.desHi) (hcount : s.desIdx = .value → t.expCount = s.expCount) :
    s.AgreeLive t :=
  h.live hst (by simp [hs]) (fun hx => hhi hx.2) (fun hx => hcount hx.2) (by simp [hs])

theorem State.AgreeCore.live_decExpand {s t : State} (h : s.AgreeCore t) (hst : t.st = s.st) (hs : s.st = .decExpand)
    (hexp : t.expCount = s.expCount ∧ t.expValue = s.expValue) : s.AgreeLive t :=
  h.live hst (by simp [hs]) (by simp [hs]) (by simp [hs]) fun _ => hexp

/-- Scanning, the response and IDLE select no other register. -/
theorem State.AgreeCore.goto_live {s t : State} (h : s.AgreeCore t) {p : Phase}
    (hp : p = .encScan ∨ p = .resp ∨ p = .idle) : (s.goto p).AgreeLive (t.goto p) := by
  rcases hp with rfl | rfl | rfl <;> exact (h.goto _).live rfl nofun nofun nofun nofun

/-- At a record boundary a fetch selects no other register. -/
theorem State.AgreeCore.goto_decFetch {s t : State} (h : s.AgreeCore t) (hi : s.desIdx = .high) :
    (s.goto .decFetch).AgreeLive (t.goto .decFetch) :=
  (h.goto .decFetch).live_decFetch rfl rfl (fun hx => absurd (hi.symm.trans hx) nofun)
    fun hx => absurd (hi.symm.trans hx) nofun

theorem State.AgreeCore.popDin {s t : State} (h : s.AgreeCore t) : s.popDin.AgreeCore t.popDin := by
  obtain ⟨hrem, hstatus, hv, hser, hdes, hrun, hcmd, hdin, hdout, hrsp, hcmdHeld, _, henv⟩ := h
  exact ⟨congrArg lenPred hrem, hstatus, hv, hser, hdes, hrun, hcmd, congrArg List.tail hdin, hdout, hrsp, hcmdHeld,
    rfl, henv⟩

theorem State.AgreeCore.putDout {s t : State} (h : s.AgreeCore t) (b : Byte) :
    (s.putDout b).AgreeCore (t.putDout b) := by
  obtain ⟨hrem, hstatus, hv, hser, hdes, hrun, hcmd, hdin, hdout, hout⟩ := h
  exact ⟨hrem, hstatus, hv, hser, hdes, hrun, hcmd, hdin, congrArg (· ++ [b]) hdout, hout⟩

theorem State.AgreeCore.setSerIdx {s t : State} (h : s.AgreeCore t) (k : RecIdx) :
    (s.setSerIdx k).AgreeCore (t.setSerIdx k) := by
  obtain ⟨hrem, hstatus, hv, _, hrest⟩ := h
  exact ⟨hrem, hstatus, hv, rfl, hrest⟩

theorem State.AgreeCore.setDesIdx {s t : State} (h : s.AgreeCore t) (k : RecIdx) :
    (s.setDesIdx k).AgreeCore (t.setDesIdx k) := by
  obtain ⟨hrem, hstatus, hv, hser, _, hrest⟩ := h
  exact ⟨hrem, hstatus, hv, hser, rfl, hrest⟩

/-- A new run is the same whatever the old one was. -/
theorem State.AgreeCore.newRun {s t : State} (h : s.AgreeCore t) (b : Byte) : (s.newRun b).AgreeCore (t.newRun b) := by
  obtain ⟨hrem, hstatus, hv, hser, hdes, _, hout⟩ := h
  exact ⟨hrem, hstatus, hv, hser, hdes, fun _ => ⟨rfl, rfl⟩, hout⟩

/-! ### Agreement over each event -/

theorem State.AgreeCore.encAdvance {s t : State} (h : s.AgreeCore t) : s.encAdvance.AgreeLive t.encAdvance := by
  have ⟨hrem, hstatus, hv, hser, hdes, hrun, hout⟩ := h
  rcases s.encAdvance_cases with ⟨hr, he⟩ | ⟨hr, hv', he⟩ | ⟨hr, hv', he⟩ <;> rw [he]
  · rw [State.encAdvance_scan (hrem ▸ hr)]
    exact h.goto_live (.inl rfl)
  · rw [State.encAdvance_flush (hrem.trans hr) (hv.trans hv')]
    obtain ⟨hvalue, hcount⟩ := hrun hv'
    have hcore : (s.latchRun.setRunValid false).AgreeCore (t.latchRun.setRunValid false) :=
      ⟨hrem, hstatus, rfl, rfl, hdes, nofun, hout⟩
    exact (hcore.goto .encEmit).live_encEmit rfl rfl ⟨hcount, hvalue⟩
  · rw [State.encAdvance_done (hrem.trans hr) (hv.trans hv')]
    exact h.goto_live (.inr (.inl rfl))

theorem State.AgreeCore.decAdvance {s t : State} (h : s.AgreeCore t) (hi : s.desIdx = .high) :
    s.decAdvance.AgreeLive t.decAdvance := by
  have ⟨hrem, _⟩ := h
  rcases s.decAdvance_cases with ⟨hr, he⟩ | ⟨hr, he⟩ <;> rw [he]
  · rw [State.decAdvance_fetch (hrem ▸ hr)]
    exact h.goto_decFetch hi
  · rw [State.decAdvance_done (hrem.trans hr)]
    exact h.goto_live (.inr (.inl rfl))

theorem State.AgreeCore.scan {s t : State} (h : s.AgreeCore t) (b : Byte) :
    (s.encScanByte b).AgreeLive (t.encScanByte b) := by
  have ⟨hrem, hstatus, hv, hser, hdes, hrun, hout⟩ := h
  rw [State.encScanByte_eq, State.encScanByte_eq, hv]
  cases hv' : s.runValid with
  | false =>
    rw [if_pos rfl, if_pos rfl]
    exact State.AgreeCore.encAdvance ⟨hrem, hstatus, rfl, hser, hdes, fun _ => ⟨rfl, rfl⟩, hout⟩
  | true =>
    obtain ⟨hvalue, hcount⟩ := hrun hv'
    simp only [Bool.true_eq_false, if_false, hvalue, hcount]
    by_cases hx : b = s.runValue ∧ s.runCount.toNat < 65535
    · rw [if_pos hx, if_pos hx]
      exact State.AgreeCore.encAdvance
        ⟨hrem, hstatus, hv, hser, hdes, fun _ => ⟨hvalue, congrArg (· + 1) hcount⟩, hout⟩
    · rw [if_neg hx, if_neg hx]
      have hcore : (s.latchRun.newRun b).AgreeCore (t.latchRun.newRun b) :=
        ⟨hrem, hstatus, hv, rfl, hdes, fun _ => ⟨rfl, rfl⟩, hout⟩
      exact (hcore.goto .encEmit).live_encEmit rfl rfl ⟨hcount, hvalue⟩

theorem State.AgreeLive.emit {s t : State} (h : s.AgreeLive t) (hs : s.st = .encEmit) :
    s.serBeat.AgreeLive t.serBeat := by
  have ⟨hst, _, _, _, hser, _, _, hlatch, _⟩ := h
  obtain ⟨hcount, hvalue⟩ := hlatch hs
  cases hi : s.serIdx with
  | high =>
    rw [State.serBeat_high hi, State.serBeat_high (hser.trans hi), hcount]
    exact ((h.core.putDout _).setSerIdx .low).live_encEmit hst hs ⟨hcount, hvalue⟩
  | low =>
    rw [State.serBeat_low hi, State.serBeat_low (hser.trans hi), hcount]
    exact ((h.core.putDout _).setSerIdx .value).live_encEmit hst hs ⟨hcount, hvalue⟩
  | value =>
    rw [State.serBeat_value hi, State.serBeat_value (hser.trans hi), hvalue]
    exact ((h.core.putDout _).setSerIdx .high).encAdvance

theorem State.AgreeLive.fetch {s t : State} (h : s.AgreeLive t) (hs : s.st = .decFetch) (b : Byte) :
    (s.popDin.fetchByte b).AgreeLive (t.popDin.fetchByte b) := by
  have ⟨hst, _, _, _, _, hdes, _, _, hhi, hcount, _⟩ := h
  have hcore := h.core.popDin
  cases hi : s.desIdx with
  | high =>
    rw [State.fetchByte_high (s := s.popDin) b hi, State.fetchByte_high (s := t.popDin) b (hdes.trans hi)]
    exact State.AgreeCore.live_decFetch (s := (s.popDin.setDesHi b).setDesIdx .low) (hcore.setDesIdx .low) hst hs
      (fun _ => rfl) nofun
  | low =>
    have hbyte : t.popDin.desHi = s.popDin.desHi := hhi ⟨hs, hi⟩
    rw [State.fetchByte_low (s := s.popDin) b hi, State.fetchByte_low (s := t.popDin) b (hdes.trans hi), hbyte]
    exact State.AgreeCore.live_decFetch (s := (s.popDin.setExpCount _).setDesIdx .value) (hcore.setDesIdx .value) hst hs
      nofun fun _ => rfl
  | value =>
    have hcount : t.popDin.expCount = s.popDin.expCount := hcount ⟨hs, hi⟩
    have hnext : ((s.popDin.setExpValue b).setDesIdx .high).AgreeCore ((t.popDin.setExpValue b).setDesIdx .high) :=
      hcore.setDesIdx .high
    rcases State.fetchByte_value (s := s.popDin) b hi with ⟨hc, he⟩ | ⟨hc, he⟩ <;>
      rcases State.fetchByte_value (s := t.popDin) b (hdes.trans hi) with ⟨hc', he'⟩ | ⟨hc', he'⟩ <;>
      rw [hcount] at hc'
    · rw [he, he']
      exact (hnext.goto .decExpand).live_decExpand rfl rfl ⟨hcount, rfl⟩
    · exact absurd hc' (Nat.ne_of_gt hc)
    · exact absurd hc (Nat.ne_of_gt hc')
    · rw [he, he']
      exact hnext.decAdvance rfl

theorem State.AgreeLive.expand {s t : State} (h : s.AgreeLive t) (hs : s.st = .decExpand) (hi : s.desIdx = .high) :
    s.expandBeat.AgreeLive t.expandBeat := by
  have ⟨hst, _, _, _, _, _, _, _, _, _, hexp, _⟩ := h
  obtain ⟨hcount, hvalue⟩ := hexp hs
  have hcore : ((s.putDout s.expValue).setExpCount (s.expCount - 1)).AgreeCore
      ((t.putDout s.expValue).setExpCount (s.expCount - 1)) := h.core.putDout _
  rcases s.expandBeat_cases with ⟨hc, he⟩ | ⟨hc, he⟩ <;> rcases t.expandBeat_cases with ⟨hc', he'⟩ | ⟨hc', he'⟩ <;>
    rw [hcount] at hc' he' <;> rw [hvalue] at he'
  · rw [he, he']
    exact hcore.decAdvance hi
  · exact absurd hc hc'
  · exact absurd hc' hc
  · rw [he, he']
    exact hcore.live_decExpand hst hs ⟨rfl, hvalue⟩

theorem State.AgreeLive.respond {s t : State} (h : s.AgreeLive t) : s.respond.AgreeLive t.respond := by
  obtain ⟨hrem, hstatus, hv, hser, hdes, hrun, hcmd, hdin, hdout, hrsp, hrest⟩ := h.core
  have hput : t.rsp ++ [t.status] = s.rsp ++ [s.status] := by rw [hrsp, hstatus]
  have hcore : (s.putRsp s.status).AgreeCore (t.putRsp t.status) :=
    ⟨hrem, hstatus, hv, hser, hdes, hrun, hcmd, hdin, hdout, hput, hrest⟩
  exact hcore.goto_live (.inr (.inr rfl))

/-- A command writes every register that a step can still read after it (R35, R81, R82). -/
theorem State.SameOutside.startCommand {s t : State} (h : s.SameOutside t) (l : Len) {p : Phase}
    (hp : p = .encScan ∨ p = .decFetch) : (s.startCommand l p).AgreeLive (t.startCommand l p) := by
  obtain ⟨hcmd, hdin, hdout, hrsp, _, hrest⟩ := h
  have hcore : (s.popCmd.clearIndices.setStatus .ok).setRem l |>.AgreeCore
      ((t.popCmd.clearIndices.setStatus .ok).setRem l) :=
    ⟨rfl, rfl, rfl, rfl, rfl, nofun, congrArg List.tail hcmd, hdin, hdout, hrsp, rfl, hrest⟩
  unfold State.startCommand
  split
  · exact hcore.goto_live (.inr (.inl rfl))
  · rcases hp with rfl | rfl
    · exact hcore.goto_live (.inl rfl)
    · exact hcore.goto_decFetch rfl

theorem State.SameOutside.raiseMalformedInput {s t : State} (h : s.SameOutside t) :
    s.popCmd.raiseMalformedInput.AgreeLive t.popCmd.raiseMalformedInput := by
  obtain ⟨hcmd, hdin, hdout, hrsp, _, hrest⟩ := h
  have hcore : s.popCmd.raiseMalformedInput.AgreeCore t.popCmd.raiseMalformedInput :=
    ⟨rfl, rfl, rfl, rfl, rfl, nofun, congrArg List.tail hcmd, hdin, hdout, hrsp, rfl, hrest⟩
  exact hcore.live rfl nofun nofun nofun nofun

/-- The command taken in one idle state is taken in the other, and they then agree. -/
theorem State.SameOutside.event {s t s' : State} (h : s.SameOutside t) (hs : s.st = .idle) (ht : t.st = .idle)
    (he : s.Event s') : ∃ t', t.Event t' ∧ s'.AgreeLive t' := by
  have ⟨hcmd, _⟩ := h
  obtain ⟨l, q, ⟨hc, rfl⟩ | ⟨hc, ⟨hm, rfl⟩ | ⟨hm, rfl⟩⟩⟩ := he.of_idle hs
  · exact ⟨_, .encode l q ht (hcmd.trans hc), h.startCommand l (.inl rfl)⟩
  · exact ⟨_, .decode l q ht (hcmd.trans hc) hm, h.startCommand l (.inr rfl)⟩
  · exact ⟨_, .refuse l q ht (hcmd.trans hc) hm, h.raiseMalformedInput⟩

/-- What happens in one state happens in the other, and they still agree. -/
theorem State.AgreeLive.event {s t s' : State} (h : s.AgreeLive t) (hinv : s.Inv) (he : s.Event s') :
    ∃ t', t.Event t' ∧ s'.AgreeLive t' := by
  have ⟨hst, hrem, _, _, _, _, _, _, _, _, hexp, hout⟩ := h
  have ⟨_, hdin, _⟩ := hout
  cases hs : s.st with
  | idle => exact State.SameOutside.event hout hs (hst.trans hs) he
  | encScan =>
    obtain ⟨hr, b, d, hd, rfl⟩ := he.of_encScan hs
    exact ⟨_, .scan b d (hst.trans hs) (hrem ▸ hr) (hdin.trans hd), h.core.popDin.scan b⟩
  | encEmit =>
    obtain rfl := he.of_encEmit hs
    exact ⟨_, .emit (hst.trans hs), h.emit hs⟩
  | decFetch =>
    obtain ⟨hr, b, d, hd, rfl⟩ := he.of_decFetch hs
    exact ⟨_, .fetch b d (hst.trans hs) (hrem ▸ hr) (hdin.trans hd), h.fetch hs b⟩
  | decExpand =>
    obtain ⟨hc, rfl⟩ := he.of_decExpand hs
    obtain ⟨_, _, hi, _⟩ := (State.inv_decExpand hs).1 hinv
    exact ⟨_, .expand (hst.trans hs) ((hexp hs).1 ▸ hc), h.expand hs hi⟩
  | resp =>
    obtain rfl := he.of_resp hs
    exact ⟨_, .respond (hst.trans hs), h.respond⟩

/-! ### Agreement over a step -/

theorem State.SameOutside.edge {s t : State} (h : s.SameOutside t) : t.edge = s.edge := by
  obtain ⟨_, _, _, _, _, _, hsched, hrest⟩ := h
  rw [State.edge, State.edge, hsched, hrest]

theorem State.SameOutside.tick {s t : State} (h : s.SameOutside t) : s.tick.SameOutside t.tick := by
  have hedge := h.edge
  obtain ⟨hcmd, hdin, hdout, hrsp, hcmdHeld, hdinHeld, hsched, hrest⟩ := h
  refine ⟨hcmd, hdin, hdout, hrsp, ?_, ?_, congrArg List.tail hsched, hrest⟩
  · rw [State.tick_cmdHeld, State.tick_cmdHeld, hcmdHeld, hedge]
  · rw [State.tick_dinHeld, State.tick_dinHeld, hdinHeld, hedge]

theorem State.AgreeLive.tick {s t : State} (h : s.AgreeLive t) : s.tick.AgreeLive t.tick := by
  obtain ⟨hst, hrem, hstatus, hv, hser, hdes, hrun, hlatch, hhi, hcount, hexp, hout⟩ := h
  exact ⟨hst, hrem, hstatus, hv, hser, hdes, hrun, hlatch, hhi, hcount, hexp, State.SameOutside.tick hout⟩

theorem State.SameOutside.handshake {s t : State} (h : s.SameOutside t) (hst : t.st = s.st) (e : Edge) :
    t.handshake e = s.handshake e := by
  obtain ⟨hcmd, hdin, _, _, hcmdHeld, hdinHeld, _⟩ := h
  simp only [State.handshake, State.cmdValid, State.dinValid, State.cmdReady, State.dinReady, State.doutValid,
    State.rspValid, hst, hcmd, hdin, hcmdHeld, hdinHeld]

/-- A reset edge writes every register (R34, R170). -/
theorem State.SameOutside.resetEdge {s t : State} (h : s.SameOutside t) (e : Edge) :
    (s.resetEdge e).AgreeLive (t.resetEdge e) := by
  obtain ⟨hcmd, hdin, hdout, hrsp, hcmdHeld, hdinHeld, hsched, hrest⟩ := h
  refine ⟨rfl, rfl, rfl, rfl, rfl, rfl, fun _ => ⟨rfl, rfl⟩, fun _ => ⟨rfl, rfl⟩, fun _ => rfl, fun _ => rfl,
    fun _ => ⟨rfl, rfl⟩, ?_, ?_, hdout, hrsp, ?_, ?_, hsched, hrest⟩
  all_goals simp only [State.resetEdge, hcmd, hdin, hcmdHeld, hdinHeld]

theorem State.AgreeLive.blocked {s t : State} (h : s.AgreeLive t) (hb : s.Blocked) : t.Blocked := by
  obtain ⟨hst, hrem, _, _, _, _, _, _, _, _, hexp, hout⟩ := h
  have hh : t.handshake t.edge = s.handshake s.edge := by
    rw [State.SameOutside.edge hout]
    exact State.SameOutside.handshake hout hst _
  refine hb.imp hh.trans fun hc ⟨hr, he⟩ => hc ⟨fun hs => ?_, fun hs => ?_⟩
  · exact hrem ▸ hr (hst ▸ hs)
  · exact (hexp hs).1 ▸ he (hst.trans hs)

theorem State.AgreeLive.step {s t : State} (h : s.AgreeLive t) (hinv : s.Inv) :
    ∃ s' t', step s = .next s' ∧ step t = .next t' ∧ s'.AgreeLive t' := by
  have ⟨hst, _, _, _, _, _, _, _, _, _, _, hout⟩ := h
  have hedge : t.edge = s.edge := State.SameOutside.edge hout
  cases hr : s.edge.rst with
  | true =>
    refine ⟨_, _, step_reset hr, step_reset (hedge ▸ hr), ?_⟩
    rw [hedge]
    exact State.SameOutside.resetEdge (State.SameOutside.tick hout) _
  | false =>
    obtain ⟨s', hs'⟩ := step_total s
    rcases step_cases_blocked hr hs' with ⟨hh, he⟩ | ⟨hb, rfl⟩
    · obtain ⟨t', he', hagree⟩ := h.tick.event (State.tick_inv.2 hinv) he
      have hh' : t.handshake t.edge = true := by rw [hedge, State.SameOutside.handshake hout hst, hh]
      exact ⟨s', t', hs', step_of_event (hedge ▸ hr) hh' he', hagree⟩
    · exact ⟨_, _, hs', step_of_blocked (hedge ▸ hr) (h.blocked hb), h.tick⟩

/-- Settles O60: the command taken writes what is live, and every step keeps the agreement. -/
theorem earlierTransactionsDoNotMatter : Obligations.EarlierTransactionsDoNotMatter := by
  unfold Obligations.EarlierTransactionsDoNotMatter
  refine ⟨fun s t hs ht hout hr hh => ?_, fun _ _ hinv h => h.step hinv⟩
  have hedge : t.edge = s.edge := hout.edge
  have hready : s.CountersReady := by simp [State.CountersReady, hs]
  obtain ⟨s', hs', he⟩ := step_event_of_handshake hready hr hh
  obtain ⟨t', he', hagree⟩ := hout.tick.event hs ht he
  have hh' : t.handshake t.edge = true := by rw [hedge, hout.handshake (ht.trans hs.symm), hh]
  exact ⟨s', t', hs', step_of_event (hedge ▸ hr) hh' he', hagree⟩

end Sys2Proof.Machine

/-! PROOFS. O53 to O56: a transaction refines the function level, whatever the delays (R136, R137, R174). -/

namespace Sys2Proof.Machine

/-! ### Waiting until a partner is willing -/

/-- `v` is `s` but for the environment's part: what is held on offer and the edges to come. -/
def State.Waited (s v : State) : Prop :=
  ∃ sched cmdHeld dinHeld, v = { s with sched := sched, cmdHeld := cmdHeld, dinHeld := dinHeld }

theorem State.Waited.refl (s : State) : s.Waited s := ⟨s.sched, s.cmdHeld, s.dinHeld, rfl⟩

theorem State.Waited.tick {s v : State} (h : s.Waited v) : s.Waited v.tick := by
  obtain ⟨_, _, _, rfl⟩ := h
  exact ⟨_, _, _, rfl⟩

theorem State.Waited.of_tick {s v : State} (h : s.tick.Waited v) : s.Waited v := by
  obtain ⟨sched, cmdHeld, dinHeld, rfl⟩ := h
  exact ⟨sched, cmdHeld, dinHeld, rfl⟩

theorem State.Waited.inv {s v : State} (h : s.Waited v) (hinv : s.Inv) : v.Inv := by
  obtain ⟨_, _, _, rfl⟩ := h
  exact hinv

theorem State.Waited.sameRegs {s v : State} (h : s.Waited v) : s.SameRegs v := by
  obtain ⟨_, _, _, rfl⟩ := h
  simp [State.SameRegs]

theorem State.Waited.noToken {s v : State} (h : s.Waited v) : s.NoToken v := by
  obtain ⟨_, _, _, rfl⟩ := h
  exact .refl s

theorem State.Waited.st {s v : State} (h : s.Waited v) : v.st = s.st := h.sameRegs.1

theorem State.Dutiful.edge_rst {s : State} (h : s.Dutiful) : s.edge.rst = false := by
  obtain ⟨hsched, hrest⟩ := h
  cases he : s.sched with
  | nil => rw [State.edge_of_sched_nil he, hrest]; rfl
  | cons e es =>
    have hedge : s.edge = e := by rw [State.edge, he]; rfl
    rw [hedge]
    exact hsched e (by simp [he])

theorem State.Dutiful.tick {s : State} (h : s.Dutiful) : s.tick.Dutiful := by
  obtain ⟨hsched, hrest⟩ := h
  exact ⟨fun e he => hsched e (List.mem_of_mem_tail he), hrest⟩

theorem State.Event.dutiful {s t : State} (he : s.Event t) (h : s.Dutiful) : t.Dutiful := by
  obtain ⟨hsched, hrest⟩ := h
  obtain ⟨hsched', hrest'⟩ := he.sameEnv
  exact ⟨hsched' ▸ hsched, hrest'.trans hrest⟩

theorem State.tick_handshake_willing (s : State) : s.tick.handshake Edge.willing = s.handshake Edge.willing := by
  have hcmd : s.tick.cmdValid Edge.willing = s.cmdValid Edge.willing := by simp [State.cmdValid, Edge.willing]
  have hdin : s.tick.dinValid Edge.willing = s.dinValid Edge.willing := by simp [State.dinValid, Edge.willing]
  rw [State.handshake, hcmd, hdin]
  rfl

/-- What willing partners would let happen is let happen, when the delays are over at the latest (R174). -/
theorem State.Dutiful.handshake_made {s : State} (hd : s.Dutiful) (hh : s.handshake Edge.willing = true) :
    ∃ k v, runSteps k s = .next v ∧ s.Waited v ∧ v.Dutiful ∧ v.handshake v.edge = true ∧
      k + v.sched.length = s.sched.length := by
  induction he : s.sched generalizing s with
  | nil =>
    refine ⟨0, s, rfl, .refl s, hd, ?_, by simp [he]⟩
    rw [State.edge_of_sched_nil he, hd.2, hh]
  | cons e es ih =>
    cases hmade : s.handshake s.edge with
    | true => exact ⟨0, s, rfl, .refl s, hd, hmade, by rw [he, Nat.zero_add]⟩
    | false =>
      obtain ⟨k, v, hrun, hw, hdv, hv, hk⟩ :=
        ih hd.tick (s.tick_handshake_willing.trans hh) (by rw [State.tick_sched, he]; rfl)
      refine ⟨k + 1, v, ?_, hw.of_tick, hdv, hv, by rw [List.length_cons]; omega⟩
      rw [runSteps_succ (step_waits hd.edge_rst hmade), hrun]

/-! ### Runs of a given number of events -/

/-- From `s` the machine comes to `t` by `e` events and at most as many waits as delays are used up; and where nobody
delays, it is busy in between and has not responded (R136, R137). -/
def State.Runs (s : State) (e : Nat) (t : State) : Prop :=
  t.Dutiful ∧ ∃ n, runSteps n s = .next t ∧ e ≤ n ∧ n + t.sched.length ≤ s.sched.length + e ∧
    (s.sched = [] → ∀ k, 0 < k → k < n → ∃ u, runSteps k s = .next u ∧ u.st ≠ .idle ∧ u.rsp = s.rsp)

theorem State.Runs.refl {s : State} (h : s.Dutiful) : s.Runs 0 s :=
  ⟨h, 0, rfl, le_rfl, by omega, fun _ k _ hk => absurd hk (Nat.not_lt_zero k)⟩

/-- What willing partners would let happen happens, as the next event. -/
theorem State.Dutiful.next_event {s : State} (hd : s.Dutiful) (hh : s.handshake Edge.willing = true)
    (hc : s.CountersReady) : ∃ v t, s.Waited v ∧ v.Event t ∧ s.Runs 1 t := by
  obtain ⟨k, v, hrun, hw, hdv, hv, hk⟩ := hd.handshake_made hh
  have hready : v.CountersReady := by
    obtain ⟨_, _, _, rfl⟩ := hw
    exact hc
  obtain ⟨t, hstep, he⟩ := step_event_of_handshake hready hdv.edge_rst hv
  obtain ⟨hsched, _⟩ := he.sameEnv
  have hlen : t.sched.length ≤ v.sched.length := by
    rw [hsched, State.tick_sched, List.length_tail]
    omega
  have hnot : v.sched = [] → t.sched.length = 0 := fun h => by rw [h] at hlen; exact Nat.le_zero.1 hlen
  refine ⟨v.tick, t, hw.tick, he, he.dutiful hdv.tick, k + 1, ?_, by omega, ?_, fun hnil j hj hjk => ?_⟩
  · rw [runSteps_add hrun, runSteps_succ hstep, runSteps]
  · omega
  · rw [hnil, List.length_nil] at hk
    omega

theorem State.Runs.trans {s t u : State} {e f : Nat} (h : s.Runs e t) (g : t.Runs f u) (hs : t.st ≠ .idle)
    (hr : t.rsp = s.rsp) : s.Runs (e + f) u := by
  obtain ⟨_, n, hn, hen, hns, hbusy⟩ := h
  obtain ⟨hu, m, hm, hfm, hms, hbusy'⟩ := g
  refine ⟨hu, n + m, by rw [runSteps_add hn, hm], by omega, by omega, fun hnil k hk hkn => ?_⟩
  have hnil' : t.sched = [] := List.length_eq_zero_iff.1 (by rw [hnil, List.length_nil] at hns; omega)
  rcases Nat.lt_trichotomy k n with hlt | rfl | hgt
  · exact hbusy hnil k hk hlt
  · exact ⟨t, hn, hs, hr⟩
  · obtain ⟨j, rfl⟩ := Nat.exists_eq_add_of_lt hgt
    obtain ⟨v, hv, hvs, hvr⟩ := hbusy' hnil' (j + 1) (by omega) (by omega)
    exact ⟨v, by rw [Nat.add_assoc, runSteps_add hn, hv], hvs, hvr.trans hr⟩

/-- Where nobody delays, the steps are the events, and nobody delays after them either. -/
theorem State.Runs.of_prompt {s t : State} {e : Nat} (h : s.Runs e t) (hs : s.sched = []) :
    runSteps e s = .next t ∧ t.Prompt ∧
      ∀ k, 0 < k → k < e → ∃ u, runSteps k s = .next u ∧ u.st ≠ .idle ∧ u.rsp = s.rsp := by
  obtain ⟨⟨_, hrest⟩, n, hn, hen, hns, hbusy⟩ := h
  rw [hs, List.length_nil] at hns
  obtain rfl : e = n := by omega
  exact ⟨hn, ⟨List.length_eq_zero_iff.1 (by omega), hrest⟩, hbusy hs⟩

theorem State.Prompt.dutiful {s : State} (h : s.Prompt) : s.Dutiful := by
  obtain ⟨hsched, hrest⟩ := h
  exact ⟨by simp [hsched], hrest⟩

/-! ### The data part of a transaction -/

/-- What a data event does besides its effect on the registers: it takes a byte or puts one, and it leaves transaction
control alone. -/
theorem State.Event.data_cases {s t : State} (he : s.Event t) (hs : s.st ≠ .idle) (hr : s.st ≠ .resp) :
    s.SameControl t ∧
      ((∃ b, s.Took t [b] ∧ t.dout = s.dout) ∨ (∃ b, s.Took t [] ∧ t.dout = s.dout ++ [b])) := by
  cases he with
  | scan b d _ hrem hd =>
    obtain ⟨hdin, _, hdout, _⟩ := State.encScanByte_takes hd b
    exact ⟨State.popDin_encScanByte_sameControl hd, .inl ⟨b, .single hdin (State.encScanByte_rem hrem b), hdout⟩⟩
  | emit =>
    obtain ⟨hdout, _, hdin, _⟩ := s.serBeat_puts
    obtain ⟨hrem, _⟩ := s.serBeat_frame
    exact ⟨s.serBeat_sameControl, .inr ⟨_, .nil hdin hrem, hdout⟩⟩
  | fetch b d _ hrem hd =>
    obtain ⟨hdin, _, hdout, _⟩ := State.fetchByte_takes hd b
    exact ⟨s.popDin_fetchByte_sameControl b, .inl ⟨b, .single hdin (State.fetchByte_rem hrem b), hdout⟩⟩
  | expand =>
    obtain ⟨hdout, _, hdin, _⟩ := s.expandBeat_puts
    obtain ⟨hrem, _⟩ := s.expandBeat_frame
    exact ⟨s.expandBeat_sameControl, .inr ⟨_, .nil hdin hrem, hdout⟩⟩
  | encode _ _ hidle | decode _ _ hidle | refuse _ _ hidle => exact absurd hidle hs
  | respond hresp => exact absurd hresp hr

/-- A bound on the events left before the response: the two measures of R139, and for each byte to come the copies of a
full record. -/
def State.work (s : State) : Nat := 65536 * s.rem.toNat + s.encMeasure + s.decMeasure

theorem State.decMeasure_of_ne {s : State} (hs : s.st ≠ .decExpand) : s.decMeasure = 0 := if_neg hs

theorem State.decMeasure_lt (s : State) : s.decMeasure < 65536 := by
  unfold State.decMeasure
  split
  · exact s.expCount.isLt
  · decide

theorem TableRow.decMeasure_eq_zero {s t : State} (h : TableRow s t) (hs : s.st = .encScan ∨ s.st = .encEmit) :
    s.decMeasure = 0 ∧ t.decMeasure = 0 := by
  constructor <;> apply State.decMeasure_of_ne
  · rcases hs with hs | hs <;> simp [hs]
  · rcases h.encoder hs with ht | ht | ht <;> simp [ht]

theorem TableRow.ne_encEmit {s t : State} (h : TableRow s t) (hs : s.st = .decFetch ∨ s.st = .decExpand) :
    s.st ≠ .encEmit ∧ t.st ≠ .encEmit := by
  constructor
  · rcases hs with hs | hs <;> simp [hs]
  · rcases h.decoder hs with ht | ht | ht <;> simp [ht]

theorem State.Event.work_lt {s t : State} (he : s.Event t) (hs : s.st ≠ .idle) (hr : s.st ≠ .resp) :
    t.work < s.work := by
  have hrow := he.tableRow
  cases hst : s.st with
  | idle => exact absurd hst hs
  | resp => exact absurd hst hr
  | encScan =>
    obtain ⟨hdec, hdec'⟩ := hrow.decMeasure_eq_zero (.inl hst)
    have henc : t.encMeasure < s.encMeasure := by
      rcases he.scan_measure hst with ⟨_, h⟩ | ⟨_, h, _⟩ | ⟨_, h, _⟩ <;> omega
    obtain ⟨hrem, b, _, _, rfl⟩ := he.of_encScan hst
    have hpred := State.encScanByte_rem hrem b
    simp only [State.work]
    omega
  | encEmit =>
    obtain ⟨hdec, hdec'⟩ := hrow.decMeasure_eq_zero (.inr hst)
    obtain rfl := he.of_encEmit hst
    have henc := State.emit_measure hst
    obtain ⟨hrem, _⟩ := s.serBeat_frame
    simp only [State.work, hrem]
    omega
  | decFetch =>
    obtain ⟨henc, henc'⟩ := hrow.ne_encEmit (.inl hst)
    obtain ⟨hrem, b, _, _, rfl⟩ := he.of_decFetch hst
    have hdec := (s.popDin.fetchByte b).decMeasure_lt
    have hpred := State.fetchByte_rem hrem b
    obtain ⟨_, ⟨hv, _⟩, _⟩ := s.popDin.fetchByte_frame b
    rw [State.popDin_runValid] at hv
    simp only [State.work, State.encMeasure_of_ne henc, State.encMeasure_of_ne henc', hv]
    omega
  | decExpand =>
    obtain ⟨henc, henc'⟩ := hrow.ne_encEmit (.inr hst)
    obtain ⟨hc, rfl⟩ := he.of_decExpand hst
    have hdec := State.expand_measure hst hc
    obtain ⟨hrem, _, ⟨hv, _⟩, _⟩ := s.expandBeat_frame
    simp only [State.work, State.encMeasure_of_ne henc, State.encMeasure_of_ne henc', hv, hrem]
    omega

/-- A transaction of `op` is in progress or at its response: of the bytes `p` taken, `dout` holds past `base` what R99
and R123 say. -/
def State.Follows (s : State) (op : Op) (base p : List Byte) : Prop :=
  match op with
  | .encode => (s.st = .encScan ∨ s.st = .encEmit ∨ s.st = .resp) ∧ s.EncodesSoFar base p
  | .decode => (s.st = .decFetch ∨ s.st = .decExpand ∨ s.st = .resp) ∧ s.DecodesSoFar base p

theorem State.Waited.follows {s v : State} {op : Op} {base p : List Byte} (h : s.Waited v)
    (hf : s.Follows op base p) : v.Follows op base p := by
  obtain ⟨_, _, _, rfl⟩ := h
  cases op with
  | encode => exact hf
  | decode => exact hf

theorem State.Follows.ne_idle {s : State} {op : Op} {base p : List Byte} (h : s.Follows op base p) :
    s.st ≠ .idle := by
  cases op with
  | encode => rcases h.1 with hs | hs | hs <;> simp [hs]
  | decode => rcases h.1 with hs | hs | hs <;> simp [hs]

theorem State.Took.unique {s t : State} {x y : List Byte} (hx : s.Took t x) (hy : s.Took t y) : x = y :=
  List.append_cancel_right (hx.1.symm.trans hy.1)

theorem State.Follows.event {s t : State} {op : Op} {base p taken : List Byte} (h : s.Follows op base p)
    (hinv : s.Inv) (hs : s.st ≠ .resp) (he : s.Event t) (htook : s.Took t taken) :
    t.Follows op base (p ++ taken) := by
  cases op with
  | encode =>
    obtain ⟨hst, hso⟩ := h
    have hst : s.st = .encScan ∨ s.st = .encEmit := hst.imp_right (·.resolve_right hs)
    obtain ⟨taken', htook', hso'⟩ := he.encodes hinv hst hso
    exact htook'.unique htook ▸ ⟨he.tableRow.encoder hst, hso'⟩
  | decode =>
    obtain ⟨hst, hso⟩ := h
    have hst : s.st = .decFetch ∨ s.st = .decExpand := hst.imp_right (·.resolve_right hs)
    obtain ⟨taken', htook', hso'⟩ := he.decodes hinv hst hso
    exact htook'.unique htook ▸ ⟨he.tableRow.decoder hst, hso'⟩

/-- The function level gives `y` for `x` (R94, R115). -/
def Op.Gives (op : Op) (x y : List Byte) : Prop :=
  match op with
  | .encode => Codec.encode x = y
  | .decode => Codec.decode x = .ok y

theorem Op.Gives.unique {op : Op} {x y z : List Byte} (hy : op.Gives x y) (hz : op.Gives x z) : y = z := by
  cases op with
  | encode => exact hy.symm.trans hz
  | decode => exact Except.ok.inj (hy.symm.trans hz)

theorem State.Follows.resp {s : State} {op : Op} {base p : List Byte} (h : s.Follows op base p) (hinv : s.Inv)
    (hs : s.st = .resp) : ∃ y, op.Gives p y ∧ s.dout = base ++ y := by
  cases op with
  | encode => exact ⟨_, rfl, State.EncodesSoFar.resp hinv hs h.2⟩
  | decode => exact State.DecodesSoFar.resp hinv hs h.2

/-- With its input there, a busy block is never held up by willing partners (R174). -/
theorem State.Inv.handshake_willing {s : State} (hinv : s.Inv) (hs : s.st ≠ .idle)
    (hdin : s.rem.toNat ≤ s.din.length) : s.handshake Edge.willing = true := by
  have htake : s.st = .encScan ∨ s.st = .decFetch → s.handshake Edge.willing = true := fun hst => by
    have hrem := hinv.countersReady.1 hst
    rw [State.handshake_take _ hst, State.dinValid_iff]
    exact ⟨.inr rfl, List.exists_cons_of_length_pos (hrem.trans_le hdin)⟩
  cases hst : s.st with
  | idle => exact absurd hst hs
  | encScan => exact htake (.inl hst)
  | encEmit => rw [State.handshake_encEmit _ hst]; rfl
  | decFetch => exact htake (.inr hst)
  | decExpand => rw [State.handshake_decExpand _ hst]; rfl
  | resp => rw [State.handshake_resp _ hst]; rfl

/-- What a busy block has ahead: the bytes `r` of its input are on `din`, before `more`. -/
def State.Ahead (s : State) (r more : List Byte) : Prop := s.din = r ++ more ∧ s.rem.toNat = r.length

theorem State.Waited.ahead {s v : State} {r more : List Byte} (h : s.Waited v) (ha : s.Ahead r more) :
    v.Ahead r more := by
  obtain ⟨_, _, _, rfl⟩ := h
  exact ha

theorem State.Waited.sameControl {s v : State} (h : s.Waited v) : s.SameControl v := by
  obtain ⟨_, _, _, rfl⟩ := h
  exact .refl s

theorem State.Waited.work {s v : State} (h : s.Waited v) : v.work = s.work := by
  obtain ⟨_, _, _, rfl⟩ := h
  rfl

theorem State.Took.ahead {s t : State} {taken r more : List Byte} (htook : s.Took t taken) (h : s.Ahead r more) :
    ∃ r', r = taken ++ r' ∧ t.Ahead r' more := by
  obtain ⟨hdin, hrem⟩ := htook
  obtain ⟨hahead, hlen⟩ := h
  have hle : taken.length ≤ r.length := by omega
  obtain ⟨r', rfl⟩ : ∃ r', r = taken ++ r' := by
    rcases List.append_eq_append_iff.1 (hdin.symm.trans hahead) with ⟨r', hr', _⟩ | ⟨c, hc, _⟩
    · exact ⟨r', hr'⟩
    · have hlen' := congrArg List.length hc
      rw [List.length_append] at hlen'
      obtain rfl : c = [] := List.length_eq_zero_iff.1 (by omega)
      exact ⟨[], by rw [hc, List.append_nil, List.append_nil]⟩
  refine ⟨r', rfl, ?_, ?_⟩
  · rw [hahead, List.append_assoc] at hdin
    exact (List.append_cancel_left hdin).symm
  · rw [List.length_append] at hlen
    omega

/-- The data part of a transaction: with its input there, the block takes all of it, puts all its output and comes to
the response, by one event for each byte moved (R136). -/
theorem State.Follows.drains {op : Op} {base more : List Byte} {s : State} {p r : List Byte} (hinv : s.Inv)
    (hd : s.Dutiful) (hf : s.Follows op base p) (ha : s.Ahead r more) :
    ∃ m t, s.Runs (r.length + m) t ∧ t.dout.length = s.dout.length + m ∧ t.st = .resp ∧ t.Inv ∧
      t.Follows op base (p ++ r) ∧ t.din = more ∧ s.SameControl t := by
  induction hw : s.work using Nat.strong_induction_on generalizing s p r with
  | _ w ih =>
    by_cases hs : s.st = .resp
    · obtain ⟨hrem, _⟩ := (State.inv_idle_or_resp (.inr hs)).1 hinv
      obtain ⟨hdin, hlen⟩ := ha
      obtain rfl : r = [] := List.length_eq_zero_iff.1 (by rw [← hlen, hrem]; rfl)
      exact ⟨0, s, .refl hd, rfl, hs, hinv, (List.append_nil p).symm ▸ hf, hdin, .refl s⟩
    · have hle : s.rem.toNat ≤ s.din.length := by
        obtain ⟨hdin, hlen⟩ := ha
        rw [hlen, hdin, List.length_append]
        exact Nat.le_add_right _ _
      obtain ⟨v, u, hwait, he, hrun⟩ :=
        hd.next_event (hinv.handshake_willing hf.ne_idle hle) hinv.countersReady
      have hv : v.Inv := hwait.inv hinv
      have hfv := hwait.follows hf
      have hvs : v.st ≠ .resp := hwait.st ▸ hs
      have hlt : u.work < w := hw ▸ hwait.work ▸ he.work_lt hfv.ne_idle hvs
      obtain ⟨hcontrol, hmoved⟩ := he.data_cases hfv.ne_idle hvs
      obtain ⟨taken, htook, k, hdout, hk⟩ : ∃ taken, v.Took u taken ∧
          ∃ k, u.dout.length = v.dout.length + k ∧ taken.length + k = 1 := by
        rcases hmoved with ⟨b, htook, hdout⟩ | ⟨b, htook, hdout⟩
        · exact ⟨[b], htook, 0, congrArg List.length hdout, rfl⟩
        · exact ⟨[], htook, 1, (congrArg List.length hdout).trans List.length_append, rfl⟩
      obtain ⟨r', rfl, ha'⟩ := htook.ahead (hwait.ahead ha)
      have hfu := hfv.event hv hvs he htook
      have hcontrol := hwait.sameControl.trans hcontrol
      have ⟨_, hrsp, _⟩ := hcontrol
      obtain ⟨m, t, hruns, hm, hst, ht, hft, hdin, hcontrol'⟩ := ih u.work hlt (he.inv hv) hrun.1 hfu ha' rfl
      obtain ⟨_, _, hvdout, _⟩ := hwait.noToken
      rw [hvdout] at hdout
      refine ⟨k + m, t, ?_, by omega, hst, ht, List.append_assoc p taken r' ▸ hft, hdin, hcontrol.trans hcontrol'⟩
      have hcount : (taken ++ r').length + (k + m) = 1 + (r'.length + m) := by rw [List.length_append]; omega
      exact hcount ▸ hrun.trans hruns hfu.ne_idle hrsp

/-! ### The whole transaction -/

/-- The command at the head is taken, when the host offers it at last. -/
theorem State.Dutiful.takes_command {s : State} {c : CmdToken} {q : List CmdToken} (hd : s.Dutiful) (hs : s.st = .idle)
    (hc : s.cmd = c :: q) : ∃ v t, s.Waited v ∧ v.Event t ∧ s.Runs 1 t := by
  refine hd.next_event ?_ (by simp [State.CountersReady, hs])
  rw [State.handshake_idle _ hs, State.cmdValid_iff]
  exact ⟨.inr rfl, c, q, hc⟩

/-- The response is put, when the host takes it at last (R83). -/
theorem State.Dutiful.responds {s : State} (hd : s.Dutiful) (hs : s.st = .resp) :
    ∃ t, s.Runs 1 t ∧ t.st = .idle ∧ t.rem = s.rem ∧ t.cmd = s.cmd ∧ t.din = s.din ∧ t.dout = s.dout ∧
      t.rsp = s.rsp ++ [s.status] := by
  have hh : s.handshake Edge.willing = true := by rw [State.handshake_resp _ hs]; rfl
  obtain ⟨v, t, ⟨_, _, _, rfl⟩, he, hrun⟩ := hd.next_event hh (by simp [State.CountersReady, hs])
  obtain rfl := he.of_resp hs
  exact ⟨_, hrun, rfl, rfl, rfl, rfl, rfl, rfl⟩

/-- What ends a transaction: in IDLE with REM 0, the command gone, `y` put and `w` responded. -/
def State.EndsWith (s t : State) (q : List CmdToken) (more y : List Byte) (w : Status) : Prop :=
  t.st = .idle ∧ t.rem = 0 ∧ t.cmd = q ∧ t.din = more ∧ t.dout = s.dout ++ y ∧ t.rsp = s.rsp ++ [w]

/-- The phase in which `op` starts (R81, R82). -/
def Op.start : Op → Phase
  | .encode => .encScan
  | .decode => .decFetch

theorem State.startCommand_follows (s : State) {op : Op} (l : Len) :
    (s.startCommand l op.start).Follows op s.dout [] := by
  have hst : (s.startCommand l op.start).st = .resp ∨ (s.startCommand l op.start).st = op.start := by
    change (if l.toNat = 0 then Phase.resp else op.start) = .resp ∨ (if l.toNat = 0 then Phase.resp else op.start) = _
    split
    · exact .inl rfl
    · exact .inr rfl
  cases op with
  | encode => exact ⟨hst.elim (.inr ∘ .inr) .inl, s.startCommand_encodes l⟩
  | decode => exact ⟨hst.elim (.inr ∘ .inr) .inl, s.startCommand_decodes l⟩

theorem Op.Gives.length_of_decode {x y : List Byte} (h : Op.decode.Gives x y) : x.length % 3 = 0 := by
  by_contra hm
  rw [Op.Gives, Codec.decode_of_malformed_length hm] at h
  cases h

/-- A command of a length that the function level accepts starts its data part. -/
theorem State.Event.starts {s t : State} {op : Op} {len : Len} {x y : List Byte} {q : List CmdToken} (he : s.Event t)
    (hs : s.st = .idle) (hc : s.cmd = ⟨op, len⟩ :: q) (hlen : len.toNat = x.length) (hy : op.Gives x y) :
    t = s.startCommand len op.start := by
  obtain ⟨l, q', ⟨hc', rfl⟩ | ⟨hc', hcase⟩⟩ := he.of_idle hs <;> rw [hc] at hc' <;> cases hc'
  · rfl
  · rcases hcase with ⟨_, rfl⟩ | ⟨hm, _⟩
    · rfl
    · exact absurd (hlen ▸ hy.length_of_decode) hm

theorem Op.Gives.start {op : Op} {len : Len} {x y : List Byte} (hlen : len.toNat = x.length) (hy : op.Gives x y) :
    op.start = .encScan ∨ op.start = .decFetch ∧ len.toNat % 3 = 0 := by
  cases op with
  | encode => exact .inl rfl
  | decode => exact .inr ⟨rfl, hlen ▸ hy.length_of_decode⟩

/-- A transaction from any idle state, under any finite delays: `2 + len + m` events, and the function's result. -/
theorem State.Dutiful.transaction {s : State} {op : Op} {len : Len} {x y more : List Byte} {q : List CmdToken}
    (hd : s.Dutiful) (hs : s.st = .idle) (hc : s.cmd = ⟨op, len⟩ :: q) (hlen : len.toNat = x.length)
    (hdin : s.din = x ++ more) (hy : op.Gives x y) :
    ∃ t, s.Runs (2 + x.length + y.length) t ∧ s.EndsWith t q more y .ok := by
  obtain ⟨v, u, hwait, he, hrun⟩ := hd.takes_command hs hc
  obtain ⟨hcmd, hvdin, hvdout, hvrsp⟩ := hwait.noToken
  obtain rfl := he.starts (hwait.st.trans hs) (hcmd.trans hc) hlen hy
  have hinv : (v.startCommand len op.start).Inv := v.startCommand_inv len (hy.start hlen)
  have hf : (v.startCommand len op.start).Follows op v.dout [] := v.startCommand_follows len
  have ha : (v.startCommand len op.start).Ahead x more := ⟨hvdin.trans hdin, hlen⟩
  obtain ⟨m, u, hruns, hm, hst, hu, hfu, hudin, hucmd, hursp, hustatus⟩ := hf.drains hinv hrun.1 ha
  obtain ⟨y', hy', hudout⟩ := hfu.resp hu hst
  obtain rfl : y' = y := hy'.unique hy
  have hrsp : u.rsp = s.rsp := hursp.trans hvrsp
  have hlen' : m = y'.length := by
    have hm' : u.dout.length = v.dout.length + m := hm
    rw [hudout, List.length_append] at hm'
    omega
  have hmid : s.Runs (1 + (x.length + m)) u := hrun.trans hruns hf.ne_idle hvrsp
  obtain ⟨t, hlast, htst, htrem, htcmd, htdin, htdout, htrsp⟩ := hruns.1.responds hst
  obtain ⟨hurem, _⟩ := (State.inv_idle_or_resp (.inr hst)).1 hu
  have hcount : 2 + x.length + y'.length = 1 + (x.length + m) + 1 := by omega
  refine ⟨t, hcount ▸ hmid.trans hlast hfu.ne_idle hrsp, htst, htrem.trans hurem, ?_, htdin.trans hudin, ?_, ?_⟩
  · rw [htcmd, hucmd]
    exact congrArg List.tail (hcmd.trans hc)
  · rw [htdout, hudout, hvdout]
  · rw [htrsp, hrsp, hustatus]
    rfl

/-- A DECODE of a length that is not a multiple of 3 is two events, the raise and the response (R116, R155). -/
theorem State.Dutiful.refused {s : State} {len : Len} {q : List CmdToken} (hd : s.Dutiful) (hs : s.st = .idle)
    (hc : s.cmd = ⟨.decode, len⟩ :: q) (hm : len.toNat % 3 ≠ 0) :
    ∃ t, s.Runs 2 t ∧ s.EndsWith t q s.din [] .malformedInput := by
  obtain ⟨v, u, hwait, he, hrun⟩ := hd.takes_command hs hc
  obtain ⟨hcmd, hvdin, hvdout, hvrsp⟩ := hwait.noToken
  have he' : v.Event v.popCmd.raiseMalformedInput := .refuse len q (hwait.st.trans hs) (hcmd.trans hc) hm
  obtain rfl := he.unique he'
  obtain ⟨t, hlast, htst, htrem, htcmd, htdin, htdout, htrsp⟩ := hrun.1.responds rfl
  refine ⟨t, hrun.trans hlast nofun hvrsp, htst, htrem, ?_, htdin.trans hvdin, ?_, ?_⟩
  · rw [htcmd]
    exact congrArg List.tail (hcmd.trans hc)
  · rw [htdout, List.append_nil]
    exact hvdout
  · rw [htrsp]
    exact congrArg (· ++ [_]) hvrsp

/-! ### The statements -/

/-- Settles O53: where nobody delays, the transaction's events are the steps. -/
theorem encodeTransactionRefinesEncode : Obligations.EncodeTransactionRefinesEncode := by
  unfold Obligations.EncodeTransactionRefinesEncode
  intro s len x more q hs hp hc hlen hdin
  obtain ⟨t, hruns, hend⟩ := hp.dutiful.transaction (op := .encode) hs hc hlen hdin rfl
  obtain ⟨hrun, _, hbusy⟩ := hruns.of_prompt hp.1
  exact ⟨⟨t, hrun, hend⟩, hbusy⟩

/-- Settles O54: as for ENCODE, and a refused length is two events. -/
theorem decodeTransactionRefinesDecode : Obligations.DecodeTransactionRefinesDecode := by
  unfold Obligations.DecodeTransactionRefinesDecode
  constructor
  · intro s len x y more q hs hp hc hlen hdin hy
    obtain ⟨t, hruns, hend⟩ := hp.dutiful.transaction (op := .decode) hs hc hlen hdin hy
    obtain ⟨hrun, _, hbusy⟩ := hruns.of_prompt hp.1
    exact ⟨⟨t, hrun, hend⟩, hbusy⟩
  · intro s len q hs hp hc hm
    obtain ⟨t, hruns, hst, hrem, hcmd, hdin, hdout, hrsp⟩ := hp.dutiful.refused hs hc hm
    obtain ⟨hrun, _⟩ := hruns.of_prompt hp.1
    exact ⟨t, hrun, hst, hrem, hcmd, hdin, hdout.trans (List.append_nil _), hrsp⟩

/-- A buffer that a command does not take is empty, or the command is refused (R176). -/
theorem CmdToken.input_eq {c : CmdToken} {x : List Byte} (hlen : x.length = c.len.toNat)
    (hok : c.op = .encode ∨ c.len.toNat % 3 = 0) : (if c.takesInput then x else []) = x := by
  by_cases hpos : 0 < c.len.toNat
  · refine if_pos ?_
    obtain ⟨op, len⟩ := c
    cases op with
    | encode => exact decide_eq_true hpos
    | decode =>
      have hm : len.toNat % 3 = 0 := hok.resolve_left nofun
      simpa [CmdToken.takesInput, lengthMalformed, hm] using hpos
  · obtain rfl : x = [] := List.length_eq_zero_iff.1 (by omega)
    exact ite_self _

theorem CmdToken.input_of_malformed {len : Len} {x : List Byte} (hm : len.toNat % 3 ≠ 0) :
    (if (CmdToken.mk .decode len).takesInput then x else []) = [] := by
  have : (CmdToken.mk .decode len).takesInput = false := by simp [CmdToken.takesInput, lengthMalformed, hm]
  rw [this]
  rfl

/-- The events of a run bound its steps, delays included. -/
theorem State.Runs.le {s t : State} {e : Nat} (h : s.Runs e t) :
    ∃ n, n ≤ s.sched.length + e ∧ runSteps n s = .next t := by
  obtain ⟨_, n, hn, _, hns, _⟩ := h
  exact ⟨n, by omega, hn⟩

/-- Settles O55: the transaction is the same events under any delays, and each delay is at most one more step. -/
theorem delaysDoNotChangeTheResult : Obligations.DelaysDoNotChangeTheResult := by
  unfold Obligations.DelaysDoNotChangeTheResult
  rintro s ⟨op, len⟩ x more q hs hd hc hlen hdin
  have accepted : ∀ y, op.Gives x y → s.din = x ++ more → ∃ n t,
      n ≤ s.sched.length + 2 + len.toNat + (t.dout.length - s.dout.length) ∧ runSteps n s = .next t ∧
        s.EndsWith t q more y .ok := by
    intro y hy hdin
    obtain ⟨t, hruns, hend⟩ := hd.transaction hs hc hlen.symm hdin hy
    obtain ⟨n, hn, hrun⟩ := hruns.le
    have ⟨_, _, _, _, hput, _⟩ := hend
    have hdout := congrArg List.length hput
    rw [List.length_append] at hdout
    exact ⟨n, t, by simp only at hlen; omega, hrun, hend⟩
  cases op with
  | encode =>
    rw [CmdToken.input_eq hlen (.inl rfl)] at hdin
    obtain ⟨n, t, hn, hrun, hst, hrem, hcmd, htdin, hdout, hrsp⟩ := accepted _ rfl hdin
    exact ⟨n, t, hn, hrun, hst, hrem, hcmd, htdin, hdout, hrsp⟩
  | decode =>
    by_cases hm : len.toNat % 3 = 0
    · rw [CmdToken.input_eq hlen (.inr hm)] at hdin
      obtain ⟨rs, hrs⟩ := Codec.exists_deserialize_of_length (e := x) (hlen ▸ hm)
      have hy := Codec.decode_of_deserialize (hlen ▸ hm) hrs
      obtain ⟨n, t, hn, hrun, hst, hrem, hcmd, htdin, hdout, hrsp⟩ := accepted _ hy hdin
      exact ⟨n, t, hn, hrun, hst, hrem, hcmd, htdin, by simp only [hy]; exact ⟨hdout, hrsp⟩⟩
    · rw [CmdToken.input_of_malformed hm, List.nil_append] at hdin
      obtain ⟨t, hruns, hst, hrem, hcmd, htdin, hdout, hrsp⟩ := hd.refused hs hc hm
      obtain ⟨n, hn, hrun⟩ := hruns.le
      have hy : Codec.decode x = .error .malformedInput := Codec.decode_of_malformed_length (hlen ▸ hm)
      exact ⟨n, t, by omega, hrun, hst, hrem, hcmd, htdin.trans hdin, by
        simp only [hy]; exact ⟨hdout.trans (List.append_nil _), hrsp⟩⟩

theorem decode_encode (b : List Byte) : Codec.decode (Codec.encode b) = .ok b := by
  rw [Codec.encode, Codec.decode_serialize, Codec.expand_encRuns]

/-- Settles O56: the records of `b` stand for it; and the block, idle again with nobody delaying, goes on with the
second transaction. -/
theorem roundTrip : Obligations.RoundTrip := by
  unfold Obligations.RoundTrip
  refine ⟨decode_encode, fun s l1 l2 b more q hs hp hc h1 h2 hdin => ?_⟩
  rw [List.append_assoc] at hdin
  obtain ⟨t, hruns, hst, _, hcmd, htdin, hdout, hrsp⟩ :=
    hp.dutiful.transaction (op := .encode) (y := Codec.encode b) hs hc h1 hdin rfl
  obtain ⟨hrun, ht, _⟩ := hruns.of_prompt hp.1
  obtain ⟨u, hruns', hust, _, hucmd, hudin, hudout, hursp⟩ :=
    ht.dutiful.transaction (op := .decode) hst hcmd h2 htdin (decode_encode b)
  obtain ⟨hrun', _, _⟩ := hruns'.of_prompt ht.1
  refine ⟨_, u, rfl, ?_, hust, hucmd, hudin, by rw [hudout, hdout], by rw [hursp, hrsp, List.append_assoc]; rfl⟩
  have hcount : 4 + 2 * b.length + 2 * (Codec.encode b).length =
      (2 + b.length + (Codec.encode b).length) + (2 + (Codec.encode b).length + b.length) := by omega
  rw [hcount, runSteps_add hrun, hrun']

end Sys2Proof.Machine
